-- ==== Sys2Proof/Word.lean ====
section
/-! DEFINITION. The unsigned widths of spec/00_scope.md R10: `uN` is an unsigned N-bit value, bit 0 the
least significant. Nothing in the spec is signed (R10) and nothing is wider than a byte (20_memory.md R45). -/

namespace Sys2Proof

/-- `u1`: a wire or a strobe (R10). -/
abbrev U1 := BitVec 1

/-- `u2`: the tick scaler and the control vector (R10). -/
abbrev U2 := BitVec 2

/-- `u6`: the fold index, 0..32 (30_encoding.md R67). -/
abbrev U6 := BitVec 6

/-- `u7`: the phase angle and a drive level (30_encoding.md R65, R69). -/
abbrev U7 := BitVec 7

/-- `u8`: a table entry, a waveform sample, a duty value (20_memory.md R45). -/
abbrev U8 := BitVec 8

/-- `trunc_N(v)` is `v mod 2^N` (00_scope.md R11). -/
abbrev trunc (n v : Nat) : BitVec n := BitVec.ofNat n v

/-- `zext_N(v)` zero-extends (00_scope.md R11). -/
abbrev zext (n : Nat) {m : Nat} (v : BitVec m) : BitVec n := BitVec.ofNat n v.toNat

end Sys2Proof
end

