-- ==== Sys2Proof/Syntax.lean ====
section
/-! DEFINITION. The operations: `Instr`, one constructor per row of spec/opcode_table.json (30_encoding.md R61),
and the abstract lines of the spec's own input notation (30_encoding.md R72, R73). -/

namespace Sys2Proof

/-- The three CTRL2 operations (30_encoding.md R61). The stages ADVANCE, SINE, SPLIT, SCALE and PROGRAM
have no encoding and are no constructors (R64). -/
inductive Instr where
  /-- CTRL `00`: no raw tick this cycle (44_tick_step.md R161). -/
  | nop
  /-- CTRL `01`: one raw timer tick (44_tick_step.md R162). -/
  | tick
  /-- CTRL `1x`: reset (70_reset_and_hazards.md R200). `tickOffered` is CTRL[0], the tick offered in the same
  cycle, which the operation discards (R201); the notation calls the form with it `RESET.T` (30_encoding.md R72). -/
  | reset (tickOffered : Bool)
deriving DecidableEq, Repr, Inhabited

/-- The mnemonics an input line may hold: the four of 30_encoding.md R72 and the two pseudo-operations of R73. -/
inductive LineOp where
  | nop | tick | reset | resetT | step | cycle
deriving DecidableEq, Repr

/-- One input line `OP *n`; a line without a count has `count = 1` (30_encoding.md R72). -/
structure InputLine where
  op : LineOp
  count : Nat
deriving DecidableEq, Repr

end Sys2Proof
end

