-- ==== Sys2Proof/WellFormed.lean ====
section
/-! DEFINITION. Well-formedness of what the environment may present. Every operation is legal
(30_encoding.md R62), so the checks that can refuse are the width of a control word (R60) and the count of an
input line (R72). The check of a SINE_TABLE is `Machine.romDefect` (40_sine_lut.md R81). -/

namespace Sys2Proof

/-- No operation is illegal or reserved: every operand of every constructor is in range by its type
(30_encoding.md R62). -/
def Instr.wellFormed : Instr → Bool
  | .nop => true
  | .tick => true
  | .reset _ => true

/-- A word is a CTRL2 vector exactly when it fits the two wires `rst_i` and `tick_i` (30_encoding.md R60). -/
def ctrlWordFits (w : Nat) : Bool := decide (w < 4)

/-- `OP *n` has a decimal count of at least 1 (30_encoding.md R72). -/
def InputLine.wellFormed (l : InputLine) : Bool := decide (1 ≤ l.count)

end Sys2Proof
end

