-- ==== Sys2Proof/Decode.lean ====
section
/-! DEFINITION. The CTRL2 format of spec/30_encoding.md: `CTRL[1:0] = {rst_i, tick_i}` (R60), its total decode
(R61, R62), the encoder, and the rows of spec/opcode_table.json. -/

namespace Sys2Proof

/-- `CTRL[1:0] = {rst_i, tick_i}`: `rst_i` is the more significant bit (30_encoding.md R60, 00_scope.md R10). -/
def ctrl (rst tick : U1) : U2 := rst ++ tick

/-- `CTRL[1]` (30_encoding.md R60). -/
def rstOf (v : U2) : U1 := v.extractLsb' 1 1

/-- `CTRL[0]` (30_encoding.md R60). -/
def tickOf (v : U2) : U1 := v.extractLsb' 0 1

/-- The total decode of a control vector (30_encoding.md R61): `rst_i` selects RESET whatever `tick_i` is. -/
def decode (v : U2) : Instr :=
  if rstOf v = 1 then .reset (decide (tickOf v = 1))
  else if tickOf v = 1 then .tick
  else .nop

/-- The control vector of an operation (30_encoding.md R61). -/
def encode : Instr → U2
  | .nop => 0b00#2
  | .tick => 0b01#2
  | .reset false => 0b10#2
  | .reset true => 0b11#2

/-- Why a word is refused before it reaches the decoder. -/
inductive DecodeError where
  /-- The word has a bit set above CTRL[1], so it is no CTRL2 vector (30_encoding.md R60: the format is 2 bits long). -/
  | notCtrl2 (word : Nat)
deriving DecidableEq, Repr

/-- The control vector held in the low `nbits` bits of `w`; every bit above them is 0. -/
def ctrlOfWord (nbits w : Nat) : Except DecodeError U2 :=
  if ctrlWordFits (w % 2 ^ nbits) then .ok (BitVec.ofNat 2 (w % 2 ^ nbits))
  else .error (.notCtrl2 (w % 2 ^ nbits))

/-- Decode of any word: the operation of a CTRL2 vector, or a refusal by name. -/
def decodeWord (nbits w : Nat) : Except DecodeError Instr :=
  match ctrlOfWord nbits w with
  | .ok v => .ok (decode v)
  | .error e => .error e

/-- The operation read from a word numbered as spec/opcode_table.json numbers it; none where it is refused. -/
def decodeTableWord (nbits w : Nat) : Option Instr :=
  match decodeWord nbits w with
  | .ok i => some i
  | .error _ => none

/-- One row of spec/opcode_table.json: a vector `v` is the row's operation when `v &&& mask = pattern`. -/
structure OpcodeRow where
  mask : U2
  pattern : U2
deriving DecidableEq, Repr

/-- A vector matches a row (30_encoding.md R61). -/
def OpcodeRow.matches (r : OpcodeRow) (v : U2) : Bool := decide (v &&& r.mask = r.pattern)

/-- The row of an operation: NOP mask `0b11` match `0b00`, TICK mask `0b11` match `0b01`, RESET mask `0b10`
match `0b10` (30_encoding.md R61, spec/opcode_table.json). -/
def Instr.row : Instr → OpcodeRow
  | .nop => ⟨0b11#2, 0b00#2⟩
  | .tick => ⟨0b11#2, 0b01#2⟩
  | .reset _ => ⟨0b10#2, 0b10#2⟩

/-- The opcode table, in its own order. -/
def opcodeTable : List OpcodeRow := [Instr.nop.row, Instr.tick.row, (Instr.reset false).row]

end Sys2Proof
end

