-- ==== Sys2Proof/Machine/SineTable.lean ====
section
/-! DEFINITION. The block's one memory, the 32-byte sine ROM (20_memory.md R40, R49), as a list of
(index, byte) cells in one canonical form, and the check of a SINE_TABLE (40_sine_lut.md R81). -/

namespace Sys2Proof.Machine

/-- The cells of a memory, addresses strictly rising. An unlisted address holds no value: the ROM has exactly
the indices 0..31 and no other address space exists (20_memory.md R41, R42). -/
abbrev Memory := List Host.Cell

/-- The byte at an address, none where no cell stands. -/
def Memory.read : Memory → Nat → Option U8
  | [], _ => none
  | (k, b) :: m, a => if k = a then some b else Memory.read m a

/-- Every listed address is at least `lo` and the addresses rise strictly. -/
def Memory.risingFrom : Nat → Memory → Bool
  | _, [] => true
  | lo, (k, _) :: m => decide (lo ≤ k) && Memory.risingFrom (k + 1) m

/-- The canonical form: addresses strictly rising, so that equal memories are equal lists. (No cell can equal
what an unlisted address reads as, since that is no value.) -/
def Memory.wf (m : Memory) : Bool := Memory.risingFrom 0 m

/-- Consecutive bytes from address `a` on: entry `T[i]` at index `i` (20_memory.md R49). -/
def Memory.ofBytes : Nat → List U8 → Memory
  | _, [] => []
  | a, b :: bs => (a, b) :: Memory.ofBytes (a + 1) bs

/-- The bytes of a memory in address order. -/
def Memory.bytes (m : Memory) : List U8 := m.map Prod.snd

/-- The four items of 40_sine_lut.md R81. -/
inductive TableItem where
  /-- Item 1: exactly 32 entries. -/
  | length
  /-- Item 2: every entry in 0..127. -/
  | range
  /-- Item 3: `T[0] == 0`. -/
  | zeroStart
  /-- Item 4: `T[i] <= T[i+1]`. -/
  | nonDecreasing
deriving DecidableEq, Repr

/-- The number 40_sine_lut.md R81 gives an item. -/
def TableItem.number : TableItem → Nat
  | .length => 1
  | .range => 2
  | .zeroStart => 3
  | .nonDecreasing => 4

/-- What a BAD_TABLE refusal records: the item broken and the first index that breaks it (60_exceptions.md R184).
A wrong length has no such index. -/
structure TableDefect where
  item : TableItem
  index : Option Nat
deriving DecidableEq, Repr

/-- The first position `i + 1` whose byte is below the byte at `i`, counting positions from `at`. -/
def firstDrop (pos : Nat) : List U8 → Option Nat
  | b :: c :: bs => if c.toNat < b.toNat then some (pos + 1) else firstDrop (pos + 1) (c :: bs)
  | _ => none

/-- The first position whose byte is above 127, counting positions from `pos`. -/
def firstAbove (pos : Nat) : List U8 → Option Nat
  | [] => none
  | b :: bs => if 127 < b.toNat then some pos else firstAbove (pos + 1) bs

/-- The lowest-numbered item of 40_sine_lut.md R81 that a table breaks, none for a well-formed table. -/
def tableDefect (T : List U8) : Option TableDefect :=
  if T.length ≠ 32 then some ⟨.length, none⟩
  else match firstAbove 0 T with
    | some i => some ⟨.range, some i⟩
    | none =>
      if T.head? ≠ some 0 then some ⟨.zeroStart, some 0⟩
      else match firstDrop 0 T with
        | some i => some ⟨.nonDecreasing, some i⟩
        | none => none

/-- The same check of a memory: its addresses are exactly 0..31 (20_memory.md R40, R49) and its bytes are a
well-formed table. -/
def romDefect (m : Memory) : Option TableDefect :=
  if m.map Prod.fst ≠ List.range m.length then some ⟨.length, none⟩
  else tableDefect m.bytes

end Sys2Proof.Machine
end

