-- ==== Sys2Proof/Config.lean ====
section
/-! DEFINITION. The configuration, `SINE_TABLE` and nothing else (00_scope.md R17), and the values the spec leaves
open, each an opaque constant that no proof can evaluate. -/

namespace Sys2Proof

/-- A sine ROM whose contents meet 40_sine_lut.md R81. A ROM that breaks R81 cannot be built, so "no run of a
refused configuration exists" (60_exceptions.md R184). -/
structure SineRom where
  cells : Machine.Memory := Machine.Memory.ofBytes 0 (List.replicate 32 0)
  ok : Machine.romDefect cells = none := by decide
deriving DecidableEq, Repr, Inhabited

/-- The seven hardware registers of 10_state.md R20. -/
structure Regs where
  /-- PhaseAngle, u7, 0..127 (R21). -/
  phase : U7
  /-- TickScaler, u2, 0..3 (R22). -/
  scaler : U2
  /-- Channel pair A, sub-channel 0 (R25). -/
  dutyA0 : U8
  /-- Channel pair A, sub-channel 1 (R25). -/
  dutyA1 : U8
  /-- Channel pair B, sub-channel 0 (R25). -/
  dutyB0 : U8
  /-- Channel pair B, sub-channel 1 (R25). -/
  dutyB1 : U8
  /-- An advance happened at the last edge (R24, R26). -/
  upd : U1
deriving DecidableEq, Repr, Inhabited

/-- DESIGN CHOICE (log 1; safe): the OPEN parameter `SINE_TABLE` of the machine whose state after reset is
`State.reset`: some well-formed table, nothing else known (00_scope.md R9, 92_eei_decisions.md D9). -/
opaque Config.sineRom : SineRom

/-- DESIGN CHOICE (log 2; safe): what the registers hold at the n-th power-on, before any RESET: unknown values
of their widths (10_state.md R32). -/
opaque Config.powerOnRegs : Nat → Regs

/-- DESIGN CHOICE (log 3; safe): what the registers hold after a NOP from an unknown state, by the cycle and the
registers before it: unknown (44_tick_step.md R167). -/
opaque Config.unknownAfterNop : Nat → Regs → Regs

/-- DESIGN CHOICE (log 3; safe): what the registers hold after a TICK from an unknown state: unknown
(44_tick_step.md R167). -/
opaque Config.unknownAfterTick : Nat → Regs → Regs

/-- DESIGN CHOICE (log 4; safe): the control vector the environment drives in a cycle that no listed input
covers, by the cycle's number: any of the four (30_encoding.md R62, 70_reset_and_hazards.md R222). -/
opaque Config.hostCtrl : Nat → U2

end Sys2Proof
end

