-- ==== Sys2Proof/Machine/State.lean ====
section
/-! DEFINITION. The machine's state (spec/10_state.md R20), the host's side of it (the control vectors still to be
driven and the output vectors already read, R28), the reasons a run stops (60_exceptions.md R181), and the state
after reset (70_reset_and_hazards.md R200). -/

namespace Sys2Proof.Machine

/-- The stages that have a domain (60_exceptions.md R182). -/
inductive Stage where
  | sine | split | rom
deriving DecidableEq, Repr

/-- The faults of 60_exceptions.md R181. None is a hardware exception. -/
inductive Fault where
  /-- DOMAIN, code 1 (R182): a stage evaluated outside its domain, with the stage and the offending value. Raised by
  `romRead` (index of 32 or more), `split` (sample 255) and `sineAt` (angle of 128 or more); never by `step`.
  Safe: the model stops where the source permits undefined behaviour (93_implementation_defined.md I1-I3). -/
  | domain (stage : Stage) (value : Nat)
  /-- UNRESET_READ, code 2 (R183): the host read the outputs while `known == false`, with the cycle number of the
  reading. Raised by `readOutputs`, and so by a `step` whose cycle reads. Safe: no value is given. -/
  | unresetRead (cycle : Nat)
deriving DecidableEq, Repr

/-- The refusals. -/
inductive Refusal where
  /-- The constructor that the host's interface fixes for an operation without a meaning. It is none of the three
  failure reasons of R181: every operation has its meaning, and nothing in the model answers with it (log 13). Safe:
  nothing is claimed. -/
  | notModelled (mnemonic : String)
  /-- BAD_TABLE, code 3 (60_exceptions.md R184): a `SINE_TABLE` that breaks 40_sine_lut.md R81. Raised by
  `loadTable` and `powerOn`, before any step. Safe: no run of a refused configuration exists. -/
  | badTable (defect : TableDefect)
deriving DecidableEq, Repr

/-- "exactly three failure reasons, a closed list" (60_exceptions.md R181), each with what its rule has it record
(R182, R183, R184). `faultReason` and `refusalReason` say which of them an answer of the model is. -/
inductive FailureReason where
  /-- DOMAIN, a fault (R182). -/
  | domain (stage : Stage) (value : Nat)
  /-- UNRESET_READ, a fault (R183). -/
  | unresetRead (cycle : Nat)
  /-- BAD_TABLE, a refusal (R184). -/
  | badTable (defect : TableDefect)
deriving DecidableEq, Repr

/-- What the environment does in one clock cycle (70_reset_and_hazards.md R223): it drives the control vector
`{rst_i, tick_i}` (30_encoding.md R60), and it may read the outputs after the rising edge (10_state.md R28). -/
structure HostCycle where
  ctrl : U2
  read : Bool
deriving DecidableEq, Repr

/-- One output vector `(phase_o, duty_a0_o, duty_a1_o, duty_b0_o, duty_b1_o, upd_o)` (10_state.md R27, R28). -/
structure Outputs where
  phaseO : U7
  dutyA0O : U8
  dutyA1O : U8
  dutyB0O : U8
  dutyB1O : U8
  updO : U1
deriving DecidableEq, Repr

/-- The state: the seven hardware registers (`Regs`), `known`, the constant configuration, and the host's side. -/
structure State extends Regs where
  /-- Model-only: a RESET has been applied since power-on (10_state.md R20, 92_eei_decisions.md D7). -/
  known : Bool
  /-- The sine ROM: configuration, constant for the block's lifetime (20_memory.md R40). -/
  rom : SineRom
  /-- The model's own: the cycles the environment will drive, the next one first (10_state.md R23). -/
  pending : List HostCycle
  /-- The model's own: how many rising edges this run has had (60_exceptions.md R183 records it). -/
  cycle : Nat
  /-- The model's own: the output vectors the host has read, the first one first (10_state.md R28). -/
  readings : List Outputs
deriving DecidableEq, Repr

/-- The machine right after reset: RESET_STATE of 70_reset_and_hazards.md R200 (10_state.md R31), with the free
configuration `Config.sineRom`, no listed input and no reading yet. -/
def State.reset : State where
  phase := 0
  scaler := 0
  dutyA0 := 0
  dutyA1 := 0
  dutyB0 := 0
  dutyB1 := 0
  upd := 0
  known := true
  rom := Config.sineRom
  pending := []
  cycle := 0
  readings := []

end Sys2Proof.Machine
end

