-- ==== Sys2Proof/Machine/Flags.lean ====
section
/-! DEFINITION. The machine has no condition codes (spec/10_state.md R24); its one flag-like value is `upd`. -/

namespace Sys2Proof.Machine

/-- The tick scaler is at its last count, so the next raw tick advances the phase (41_phase_clock.md R100). -/
def atLastCount (scaler : U2) : Bool := decide (scaler = 3)

/-- `upd` as written by an operation that did or did not advance (44_tick_step.md R161, R162). -/
def updOf (adv : Bool) : U1 := if adv then 1 else 0

/-- The next value of `upd` from the inputs and the scaler of a known state (10_state.md R26). -/
def nextUpd (rst tick : U1) (scaler : U2) : U1 :=
  updOf (decide (rst = 0) && decide (tick = 1) && atLastCount scaler)

end Sys2Proof.Machine
end

