-- ==== Sys2Proof/Machine/Operands.lean ====
section
/-! DEFINITION. The value layouts of spec/30_encoding.md section 2: the angle and its band (R65, R66), the fold
index (R67, 40_sine_lut.md R83), the drive level and the duty value (R69, R70). -/

namespace Sys2Proof.Machine

/-- The quadrant bands of 30_encoding.md R66. -/
inductive Band where
  /-- Rising, 0°→90°: angles 0..32. -/
  | q1
  /-- Falling, 90°→180°: angles 33..64. -/
  | q2
  /-- Falling, 180°→270°: angles 65..96. -/
  | q3
  /-- Rising, 270°→360°: angles 97..127. -/
  | q4
deriving DecidableEq, Repr

/-- The band of an angle, by comparing its value, the breakpoints 32, 64 and 96 inclusive (30_encoding.md R66). -/
def bandOf (a : U7) : Band :=
  if a.toNat ≤ 32 then .q1
  else if a.toNat ≤ 64 then .q2
  else if a.toNat ≤ 96 then .q3
  else .q4

/-- The fold index of an angle within its band (40_sine_lut.md R83). -/
def foldIndex (a : U7) : U6 :=
  match bandOf a with
  | .q1 => trunc 6 a.toNat
  | .q2 => trunc 6 (64 - a.toNat)
  | .q3 => trunc 6 (a.toNat - 64)
  | .q4 => trunc 6 (128 - a.toNat)

/-- `pos` of 40_sine_lut.md R83: the sample lies at or above the midpoint. -/
def foldPositive (a : U7) : Bool :=
  match bandOf a with
  | .q1 => true
  | .q2 => true
  | .q3 => false
  | .q4 => false

/-- The phase an angle stands for, `a·360/128` degrees (30_encoding.md R65). -/
def angleDegrees (a : U7) : Rat := (a.toNat * 360 : Rat) / 128

/-- A duty value is `{level[6:0], 0b0}` (30_encoding.md R70). -/
def dutyOfLevel (level : U7) : U8 := level ++ (0 : U1)

/-- The drive level of a duty value is `duty[7:1]` (30_encoding.md R70). -/
def levelOfDuty (duty : U8) : U7 := duty.extractLsb' 1 7

end Sys2Proof.Machine
end

