-- ==== Sys2Proof/Machine/Ops.lean ====
section
/-! DEFINITION. The shared operations: the one memory read `ROM(i)` (spec/20_memory.md R41), the one output write
`WriteDuty` (R43), and the passage to an unknown state (44_tick_step.md R167). The block takes no exception and
returns from none (60_exceptions.md R180, R187, R188), so there is no such operation to model. -/

namespace Sys2Proof.Machine

/-- `ROM(i)`: the table entry at an index; an index that is no ROM address raises DOMAIN (20_memory.md R41). -/
def romRead (rom : SineRom) (i : U6) : Except Fault U8 :=
  match rom.cells.read i.toNat with
  | some b => .ok b
  | none => .error (.domain .rom i.toNat)

/-- The duty register file (10_state.md R25). -/
inductive DutyReg where
  | a0 | a1 | b0 | b1
deriving DecidableEq, Repr

/-- `WriteDuty(r, v)`: register `r` takes `v` at the rising edge (20_memory.md R43). -/
def writeDuty (r : DutyReg) (v : U8) (s : State) : State :=
  match r with
  | .a0 => { s with dutyA0 := v }
  | .a1 => { s with dutyA1 := v }
  | .b0 => { s with dutyB0 := v }
  | .b1 => { s with dutyB1 := v }

/-- What a duty register holds, as its output port shows it (10_state.md R27). No operation reads one back
(20_memory.md R42). -/
def dutyOut (r : DutyReg) (s : State) : U8 :=
  match r with
  | .a0 => s.dutyA0
  | .a1 => s.dutyA1
  | .b0 => s.dutyB0
  | .b1 => s.dutyB1

/-- An unknown state: the registers hold the free values `draw`, and `known` is false (44_tick_step.md R160, R167). -/
def toUnknown (draw : Regs) (s : State) : State :=
  { s with toRegs := draw, known := false }

/-- RESET_STATE of 70_reset_and_hazards.md R200: every field of 10_state.md R20 at its reset value. The configuration
and the host's side are no fields of R20 and stay. -/
def toResetState (s : State) : State :=
  { s with
    phase := 0, scaler := 0, dutyA0 := 0, dutyA1 := 0, dutyB0 := 0, dutyB1 := 0, upd := 0, known := true }

end Sys2Proof.Machine
end

