-- ==== Sys2Proof/Machine/ResetOp.lean ====
section
/-! DEFINITION. The operation RESET (spec/70_reset_and_hazards.md section 1). -/

namespace Sys2Proof.Machine

/-- RESET (70_reset_and_hazards.md R200): RESET_STATE from any state, known or unknown. A tick offered in the same
cycle is discarded (R201), so the operand has no effect. -/
def execReset (_tickOffered : Bool) (s : State) : Host.Outcome State Fault Refusal :=
  .next (toResetState s)

end Sys2Proof.Machine
end

