-- ==== Sys2Proof/Machine/PhaseClock.lean ====
section
/-! DEFINITION. ADVANCE, the phase-accumulator stage (spec/41_phase_clock.md). -/

namespace Sys2Proof.Machine

/-- ADVANCE's result `(phase', scaler', adv)` (41_phase_clock.md R100). -/
structure AdvanceResult where
  phase : U7
  scaler : U2
  adv : Bool
deriving DecidableEq, Repr

/-- ADVANCE, one raw tick: the fourth tick moves the phase by 1 modulo 128 and clears the scaler, the other three
only count (41_phase_clock.md R100, R101, R102). -/
def advance (phase : U7) (scaler : U2) : AdvanceResult :=
  if atLastCount scaler then ⟨trunc 7 (phase.toNat + 1), 0, true⟩
  else ⟨phase, trunc 2 (scaler.toNat + 1), false⟩

/-- The electrical output frequency of a raw tick rate, `(timer-tick-rate) / 4 / 128` (41_phase_clock.md R105). No rule of
the model depends on it. -/
def electricalFrequency (tickRate : Rat) : Rat := tickRate / 4 / 128

end Sys2Proof.Machine
end

