-- ==== Sys2Proof/Machine/Splitter.lean ====
section
/-! DEFINITION. SPLIT, SCALE and DRIVE, the fixed-point waveform splitter (spec/42_splitter.md). -/

namespace Sys2Proof.Machine

/-- The DrivePair `(posLevel, negLevel)` (42_splitter.md R120). -/
structure DrivePair where
  pos : U7
  neg : U7
deriving DecidableEq, Repr

/-- The pair `(dpos, dneg)` that PROGRAM takes (43_pwm_writer.md R141). -/
structure DutyPair where
  pos : U8
  neg : U8
deriving DecidableEq, Repr

/-- SPLIT, complement about the midpoint, both subtractions guarded (42_splitter.md R120, R125). The sample 255 is
outside its domain and raises DOMAIN (R124). -/
def split (s : U8) : Except Fault DrivePair :=
  if s.toNat = 255 then .error (.domain .split 255)
  else .ok
    { pos := if 127 < s.toNat then trunc 7 (s.toNat - 127) else 0
      neg := if s.toNat < 127 then trunc 7 (127 - s.toNat) else 0 }

/-- SCALE, the doubling `{l[6:0], 0b0}` (42_splitter.md R121). -/
def scale (l : U7) : U8 := dutyOfLevel l

/-- DRIVE, SCALE of both levels of SPLIT (42_splitter.md R122). -/
def drive (s : U8) : Except Fault DutyPair :=
  match split s with
  | .ok p => .ok { pos := scale p.pos, neg := scale p.neg }
  | .error f => .error f

/-- The pair with its halves exchanged (43_pwm_writer.md R145). -/
def DutyPair.swap (d : DutyPair) : DutyPair := { pos := d.neg, neg := d.pos }

end Sys2Proof.Machine
end

