-- ==== Sys2Proof/Machine/PwmWriter.lean ====
section
/-! DEFINITION. PROGRAM, the dual PWM channel-pair register writer (spec/43_pwm_writer.md). -/

namespace Sys2Proof.Machine

/-- The two channel pairs (43_pwm_writer.md R140). -/
inductive ChannelPair where
  /-- Pair A, the positive half-cycle. -/
  | a
  /-- Pair B, the negative half-cycle. -/
  | b
deriving DecidableEq, Repr

/-- The external timers the pairs drive; pair B's has no name in the source and is called `TIMER_B`
(43_pwm_writer.md R140, 92_eei_decisions.md D12). No rule reads it. -/
inductive PwmTimer where
  | tmr0 | timerB
deriving DecidableEq, Repr

/-- The registers a pair owns, sub-channel 0 first (43_pwm_writer.md R140, 10_state.md R25). -/
def ChannelPair.regs : ChannelPair → DutyReg × DutyReg
  | .a => (.a0, .a1)
  | .b => (.b0, .b1)

/-- The timer a pair drives (43_pwm_writer.md R140). -/
def ChannelPair.timer : ChannelPair → PwmTimer
  | .a => .tmr0
  | .b => .timerB

/-- Both sub-channels of one pair take the same value, with no dead-band (43_pwm_writer.md R143). -/
def programPair (p : ChannelPair) (v : U8) (s : State) : State :=
  writeDuty p.regs.2 v (writeDuty p.regs.1 v s)

/-- PROGRAM: pair A takes `dpos`, pair B takes `dneg`, all four at the one edge (43_pwm_writer.md R141, R142). -/
def program (d : DutyPair) (s : State) : State :=
  programPair .b d.neg (programPair .a d.pos s)

end Sys2Proof.Machine
end

