-- ==== Sys2Proof/Machine/Sine.lean ====
section
/-! DEFINITION. SINE, the quadrant-folded approximator (spec/40_sine_lut.md). -/

namespace Sys2Proof.Machine

/-- `Q(idx)`: the quarter-wave value. Index 32 is answered by the saturation value 127 without a ROM read
(40_sine_lut.md R84, 90_conflicts.md C1). A well-formed entry fits the u7 (R81). -/
def quarter (rom : SineRom) (idx : U6) : Except Fault U7 :=
  if idx.toNat < 32 then
    match romRead rom idx with
    | .ok b => .ok (trunc 7 b.toNat)
    | .error f => .error f
  else .ok 127

/-- A sample from a quarter-wave value and its sign, in offset-binary form about 127 (40_sine_lut.md R84,
30_encoding.md R68). -/
def sampleOf (positive : Bool) (q : U7) : U8 :=
  if positive then trunc 8 (127 + q.toNat) else trunc 8 (127 - q.toNat)

/-- SINE (40_sine_lut.md R84), by the normative bands. -/
def sine (rom : SineRom) (a : U7) : Except Fault U8 :=
  match quarter rom (foldIndex a) with
  | .ok q => .ok (sampleOf (foldPositive a) q)
  | .error f => .error f

/-- SINE over a type wider than the hardware's: an angle of 128 or more raises DOMAIN, never clamped and never
reduced (40_sine_lut.md R90). -/
def sineAt (rom : SineRom) (a : Nat) : Except Fault U8 :=
  if a < 128 then sine rom (trunc 7 a) else .error (.domain .sine a)

/-- `qd = a[6:5]` (40_sine_lut.md R87). -/
def alignedQuadrant (a : U7) : U2 := a.extractLsb' 5 2

/-- `o = a[4:0]`, as a number (40_sine_lut.md R87). -/
def alignedOffset (a : U7) : Nat := (a.extractLsb' 0 5).toNat

/-- SINE_ALIGNED, the aligned-quadrant closed form (40_sine_lut.md R87); not the normative one. -/
def sineAligned (rom : SineRom) (a : U7) : Except Fault U8 :=
  let idx : Nat :=
    if (alignedQuadrant a).getLsbD 0 then 32 - alignedOffset a else alignedOffset a
  match quarter rom (trunc 6 idx) with
  | .ok q => .ok (sampleOf (!(alignedQuadrant a).getLsbD 1) q)
  | .error f => .error f

end Sys2Proof.Machine
end

