-- ==== Sys2Proof/Machine/TickStep.lean ====
section
/-! DEFINITION. The operations NOP and TICK (spec/44_tick_step.md). -/

namespace Sys2Proof.Machine

/-- `DUTY(a) = DRIVE(SINE(a))` (44_tick_step.md R164). -/
def dutyOf (rom : SineRom) (a : U7) : Except Fault DutyPair :=
  match sine rom a with
  | .ok sample => drive sample
  | .error f => .error f

/-- NOP (44_tick_step.md R161): `upd` drops to 0 and nothing else changes; an unknown state stays unknown
(R160, R167). -/
def execNop (s : State) : Host.Outcome State Fault Refusal :=
  if s.known then .next { s with upd := updOf false }
  else .next (toUnknown (Config.unknownAfterNop s.cycle s.toRegs) s)

/-- TICK from a known state (44_tick_step.md R162): ADVANCE, and on an advance SINE of the NEW angle, DRIVE and
PROGRAM. Every read is of the state before the edge (R163). -/
def tickKnown (s : State) : Host.Outcome State Fault Refusal :=
  let r := advance s.phase s.scaler
  let s' := { s with phase := r.phase, scaler := r.scaler, upd := updOf r.adv }
  if r.adv then
    match dutyOf s.rom r.phase with
    | .ok d => .next (program d s')
    | .error f => .fault f
  else .next s'

/-- TICK (44_tick_step.md R162); an unknown state stays unknown (R160, R167). -/
def execTick (s : State) : Host.Outcome State Fault Refusal :=
  if s.known then tickKnown s
  else .next (toUnknown (Config.unknownAfterTick s.cycle s.toRegs) s)

end Sys2Proof.Machine
end

