-- ==== Sys2Proof/Machine/Environment.lean ====
section
/-! DEFINITION. The environment's side (spec/70_reset_and_hazards.md R204, R223): the configuration and power-on, and
the control vector that a cycle presents. -/

namespace Sys2Proof.Machine

/-- The ROM of a SINE_TABLE, or BAD_TABLE with the item and the first index that breaks it (60_exceptions.md R184,
40_sine_lut.md R81). -/
def loadTable (T : List U8) : Host.Outcome SineRom Fault Refusal :=
  match h : romDefect (Memory.ofBytes 0 T) with
  | none => .next { cells := Memory.ofBytes 0 T, ok := h }
  | some d => .refused (.badTable d)

/-- The n-th power-on with a configured ROM: every hardware register unknown, `known` false (10_state.md R32). -/
def powerOnState (n : Nat) (rom : SineRom) : State where
  toRegs := Config.powerOnRegs n
  known := false
  rom := rom
  pending := []
  cycle := 0
  readings := []

/-- Power-on with a SINE_TABLE: a table that breaks 40_sine_lut.md R81 is refused "before any step runs"
(60_exceptions.md R184). -/
def powerOn (n : Nat) (T : List U8) : Host.Outcome State Fault Refusal :=
  match loadTable T with
  | .next rom => .next (powerOnState n rom)
  | .fault f => .fault f
  | .refused r => .refused r

/-- What the environment does in the coming cycle: the next listed cycle, or, past the listed ones, a free control
vector with no reading (log 4). -/
def nextCycle (s : State) : HostCycle :=
  match s.pending with
  | c :: _ => c
  | [] => { ctrl := Config.hostCtrl s.cycle, read := false }

/-- The coming cycle is taken from the list, and the edge is counted. -/
def takeCycle (s : State) : State :=
  { s with pending := s.pending.tail, cycle := s.cycle + 1 }

/-- The environment will drive these cycles next, one per clock. -/
def withScript (cs : List HostCycle) (s : State) : State := { s with pending := cs }

/-- The cycles that drive the vectors `vs`, the outputs read after every edge or after none. -/
def scriptOf (read : Bool) (vs : List U2) : List HostCycle :=
  vs.map fun v => { ctrl := v, read := read }

/-- The coming cycle presents the control vector in the low `nbits` bits of `w`, in place of the one listed for it;
a word that is no CTRL2 vector cannot be driven and changes nothing (30_encoding.md R60). -/
def presentWord (nbits w : Nat) (s : State) : State :=
  match ctrlOfWord nbits w with
  | .ok v => { s with pending := { ctrl := v, read := false } :: s.pending.tail }
  | .error _ => s

end Sys2Proof.Machine
end

