-- ==== Sys2Proof/Machine/Observe.lean ====
section
/-! DEFINITION. The output ports and their reading (spec/10_state.md R27, R28), and the three failure
reasons with their codes (spec/60_exceptions.md R181). -/

namespace Sys2Proof.Machine

/-- The output ports, each driven straight from a register (10_state.md R27). -/
def outputs (s : State) : Outputs where
  phaseO := s.phase
  dutyA0O := dutyOut .a0 s
  dutyA1O := dutyOut .a1 s
  dutyB0O := dutyOut .b0 s
  dutyB1O := dutyOut .b1 s
  updO := s.upd

/-- Reading the outputs in the present cycle: their values, or UNRESET_READ with the cycle's number while
`known == false` (60_exceptions.md R183, 10_state.md R28). -/
def readOutputs (s : State) : Host.Outcome Outputs Fault Refusal :=
  if s.known then .next (outputs s) else .fault (.unresetRead s.cycle)

/-- The host's reading after an edge: a reading is added to the list of readings, and a state that is not read stays
as it is (70_reset_and_hazards.md R223). -/
def hostRead (read : Bool) (s : State) : Host.Outcome State Fault Refusal :=
  if read then
    match readOutputs s with
    | .next o => .next { s with readings := s.readings ++ [o] }
    | .fault f => .fault f
    | .refused r => .refused r
  else .next s

/-- The reason a fault stands for (60_exceptions.md R181). -/
def faultReason : Fault → FailureReason
  | .domain stage value => .domain stage value
  | .unresetRead cycle => .unresetRead cycle

/-- The reason a refusal stands for (60_exceptions.md R181); none for the constructor of the host's interface, which
nothing answers with (log 13). -/
def refusalReason : Refusal → Option FailureReason
  | .badTable defect => some (.badTable defect)
  | _ => none

/-- The code of a failure reason (60_exceptions.md R181). -/
def reasonCode : FailureReason → Nat
  | .domain _ _ => 1
  | .unresetRead _ => 2
  | .badTable _ => 3

/-- The failure reason an outcome stops with, none for a next state (60_exceptions.md R181). -/
def stopReason {σ : Type} : Host.Outcome σ Fault Refusal → Option FailureReason
  | .next _ => none
  | .fault f => some (faultReason f)
  | .refused r => refusalReason r

/-- The outcome is a value, or stops with one of the three failure reasons (60_exceptions.md R181). -/
def stopsOnlyWithReason {σ : Type} : Host.Outcome σ Fault Refusal → Bool
  | .next _ => true
  | .fault _ => true
  | .refused r => (refusalReason r).isSome

end Sys2Proof.Machine
end

