-- ==== Sys2Proof/Machine/Step.lean ====
section
/-! DEFINITION. One clock cycle: the control vector is sampled, its operation applied at the rising edge
(spec/44_tick_step.md R160), and the outputs read if the host reads them (spec/10_state.md R28). -/

namespace Sys2Proof.Machine

/-- One clock cycle (44_tick_step.md R160). -/
def step (s : State) : Host.Outcome State Fault Refusal :=
  match exec (decode (nextCycle s).ctrl) (takeCycle s) with
  | .next t => hostRead (nextCycle s).read t
  | .fault f => .fault f
  | .refused r => .refused r

/-- The environment drives the operation of an opcode-table word in the coming cycle (30_encoding.md R60). -/
def State.withFetchWord (s : State) (nbits w : Nat) : State := presentWord nbits w s

end Sys2Proof.Machine
end

