-- ==== Sys2Proof/Machine/Notation.lean ====
section
/-! DEFINITION. The spec's textual form of an input sequence (spec/30_encoding.md section 3): the control vectors a
line stands for (R72, R73), and the reading of a text, one operation per line. -/

namespace Sys2Proof.Machine

/-- The control vectors one mnemonic stands for: NOP `00`, TICK `01`, RESET `10`, RESET.T `11`, STEP = `TICK *4`,
CYCLE = `TICK *512` (30_encoding.md R72, R73). -/
def lineOpVectors : LineOp → List U2
  | .nop => [0b00#2]
  | .tick => [0b01#2]
  | .reset => [0b10#2]
  | .resetT => [0b11#2]
  | .step => List.replicate 4 0b01#2
  | .cycle => List.replicate 512 0b01#2

/-- `OP *n` stands for n consecutive copies of OP (30_encoding.md R72). -/
def lineVectors (l : InputLine) : List U2 := (List.replicate l.count (lineOpVectors l.op)).flatten

/-- The control vectors of a sequence of lines, one per clock cycle. -/
def expandLines (ls : List InputLine) : List U2 := (ls.map lineVectors).flatten

/-- Why a line is no line of the notation. -/
inductive LineError where
  /-- The first word is none of the mnemonics. -/
  | unknownMnemonic (word : List Char)
  /-- What follows the mnemonic is not `*n` with a decimal count of at least 1. -/
  | badCount (word : List Char)
  /-- More words follow. -/
  | extraWords (count : Nat)
deriving DecidableEq, Repr

/-- A `#` starts a comment that runs to the end of the line (30_encoding.md R72). -/
def stripComment : List Char → List Char
  | [] => []
  | c :: cs => if c = '#' then [] else c :: stripComment cs

/-- The pieces of a text between the characters `isSep` holds of, the current piece `acc` reversed. -/
def piecesBy (isSep : Char → Bool) : List Char → List Char → List (List Char)
  | acc, [] => [acc.reverse]
  | acc, c :: cs => if isSep c then acc.reverse :: piecesBy isSep [] cs else piecesBy isSep (c :: acc) cs

/-- The words of a line, separated by blanks. -/
def wordsOf (cs : List Char) : List (List Char) :=
  (piecesBy (fun c => c = ' ' || c = '\t' || c = '\r') [] cs).filter fun w => !w.isEmpty

/-- The mnemonics of 30_encoding.md R72 and R73. -/
def lineOpOf (w : List Char) : Option LineOp :=
  if w = ['N', 'O', 'P'] then some .nop
  else if w = ['T', 'I', 'C', 'K'] then some .tick
  else if w = ['R', 'E', 'S', 'E', 'T'] then some .reset
  else if w = ['R', 'E', 'S', 'E', 'T', '.', 'T'] then some .resetT
  else if w = ['S', 'T', 'E', 'P'] then some .step
  else if w = ['C', 'Y', 'C', 'L', 'E'] then some .cycle
  else none

/-- A decimal numeral read on from the value `n`, none where a character is no decimal digit. -/
def decimalFrom : Nat → List Char → Option Nat
  | n, [] => some n
  | n, c :: cs =>
    if 48 ≤ c.toNat ∧ c.toNat ≤ 57 then decimalFrom (10 * n + (c.toNat - 48)) cs else none

/-- The count of a word `*n`, n a decimal numeral (30_encoding.md R72). -/
def countOf : List Char → Option Nat
  | '*' :: d :: ds => decimalFrom 0 (d :: ds)
  | _ => none

/-- A line from its mnemonic and count, where the count is at least 1 (30_encoding.md R72). -/
def lineWithCount (op : LineOp) (w : List Char) : Except LineError InputLine :=
  match countOf w with
  | some n => if (InputLine.mk op n).wellFormed then .ok ⟨op, n⟩ else .error (.badCount w)
  | none => .error (.badCount w)

/-- One line of text: nothing for a blank or comment line, else its operation (30_encoding.md R72). -/
def readLine (cs : List Char) : Except LineError (Option InputLine) :=
  match wordsOf (stripComment cs) with
  | [] => .ok none
  | m :: ws =>
    match lineOpOf m with
    | none => .error (.unknownMnemonic m)
    | some op =>
      match ws with
      | [] => .ok (some ⟨op, 1⟩)
      | [w] =>
        match lineWithCount op w with
        | .ok l => .ok (some l)
        | .error e => .error e
      | _ :: _ :: rest => .error (.extraWords (rest.length + 1))

/-- The text of a mnemonic (30_encoding.md R72, R73). -/
def lineOpText : LineOp → List Char
  | .nop => ['N', 'O', 'P']
  | .tick => ['T', 'I', 'C', 'K']
  | .reset => ['R', 'E', 'S', 'E', 'T']
  | .resetT => ['R', 'E', 'S', 'E', 'T', '.', 'T']
  | .step => ['S', 'T', 'E', 'P']
  | .cycle => ['C', 'Y', 'C', 'L', 'E']

/-- The character of a decimal digit 0..9. -/
def digitChar (d : Nat) : Char := Char.ofNat (48 + d)

/-- The decimal numeral of `n` put before `acc`, within `fuel` digits. -/
def decimalTextFrom : Nat → Nat → List Char → List Char
  | 0, _, acc => acc
  | fuel + 1, n, acc =>
    if n < 10 then digitChar n :: acc
    else decimalTextFrom fuel (n / 10) (digitChar (n % 10) :: acc)

/-- The decimal numeral of `n`. -/
def decimalText (n : Nat) : List Char := decimalTextFrom (n + 1) n []

/-- The text `OP *n` of a line (30_encoding.md R72). -/
def lineText (l : InputLine) : List Char := lineOpText l.op ++ [' ', '*'] ++ decimalText l.count

/-- The text of a sequence of lines, one per line (30_encoding.md R72). -/
def inputText : List InputLine → List Char
  | [] => []
  | l :: ls => lineText l ++ '\n' :: inputText ls

/-- The lines of a list of texts, or the first error. -/
def readLines : List (List Char) → Except LineError (List InputLine)
  | [] => .ok []
  | cs :: rest =>
    match readLine cs, readLines rest with
    | .ok none, .ok ls => .ok ls
    | .ok (some l), .ok ls => .ok (l :: ls)
    | .error e, _ => .error e
    | .ok _, .error e => .error e

/-- A whole input sequence, one operation per line (30_encoding.md R72), as its control vectors. -/
def readInput (text : List Char) : Except LineError (List U2) :=
  match readLines (piecesBy (fun c => c = '\n') [] text) with
  | .ok ls => .ok (expandLines ls)
  | .error e => .error e

end Sys2Proof.Machine
end

