-- ==== Sys2Proof/Safety.lean ====
section
/-! DEFINITION. The terms the claims use: the closed table of DUTY (spec/44_tick_step.md R164), the invariant of
spec/10_state.md R30, and what the environment must do for a run without a fault (spec/70_reset_and_hazards.md R204). -/

namespace Sys2Proof.Machine

/-- The entry `T[i]` as a number, 0 for an index that is no ROM address. -/
def entry (rom : SineRom) (i : Nat) : Nat :=
  match rom.cells.read i with
  | some b => b.toNat
  | none => 0

/-- The quarter-wave value at a position 0..32, the peak at 32 being 127 (20_memory.md R49). -/
def quarterAt (rom : SineRom) (i : Nat) : Nat := if i < 32 then entry rom i else 127

/-- SINE written out by the four bands of 30_encoding.md R66, as a number. -/
def sineTable (rom : SineRom) (a : Nat) : Nat :=
  if a ≤ 32 then 127 + quarterAt rom a
  else if a ≤ 64 then 127 + quarterAt rom (64 - a)
  else if a ≤ 96 then 127 - quarterAt rom (a - 64)
  else 127 - quarterAt rom (128 - a)

/-- DUTY written out, the table of 44_tick_step.md R164, as numbers `(pair A, pair B)`. -/
def dutyTable (rom : SineRom) (a : Nat) : Nat × Nat :=
  if a = 0 then (0, 0)
  else if a ≤ 31 then (2 * entry rom a, 0)
  else if a = 32 then (254, 0)
  else if a ≤ 63 then (2 * entry rom (64 - a), 0)
  else if a = 64 then (0, 0)
  else if a ≤ 95 then (0, 2 * entry rom (a - 64))
  else if a = 96 then (0, 254)
  else (0, 2 * entry rom (128 - a))

/-- The pair of duty values the four registers hold, where both sub-channels of each pair agree. -/
def holdsDuty (s : State) (d : DutyPair) : Prop :=
  s.dutyA0 = d.pos ∧ s.dutyA1 = d.pos ∧ s.dutyB0 = d.neg ∧ s.dutyB1 = d.neg

/-- A duty value is even and in 0..254 (30_encoding.md R70). -/
def dutyLegal (v : U8) : Prop := v.toNat % 2 = 0 ∧ v.toNat ≤ 254

/-- The five clauses of 10_state.md R30, of a known state. -/
structure Consistent (s : State) : Prop where
  channelsAgree : s.dutyA0 = s.dutyA1 ∧ s.dutyB0 = s.dutyB1
  dutyOfPhase : dutyOf s.rom s.phase = .ok { pos := s.dutyA0, neg := s.dutyB0 }
  oneIsZero : s.dutyA0 = 0 ∨ s.dutyB0 = 0
  legal : dutyLegal s.dutyA0 ∧ dutyLegal s.dutyA1 ∧ dutyLegal s.dutyB0 ∧ dutyLegal s.dutyB1
  strobe : s.upd = 1 → s.scaler = 0

/-- The invariant: a known state is consistent. It says nothing of a state before the first RESET
(10_state.md R30, R32). -/
def Inv (s : State) : Prop := s.known = true → Consistent s

/-- A run of `k` clock cycles (70_reset_and_hazards.md R222), stopping at the first fault: `Host.Core.run` of the
machine (`runFor_eq_core_run`). -/
def runFor : Nat → State → Host.Outcome State Fault Refusal
  | 0, s => .next s
  | k + 1, s =>
    match step s with
    | .next t => runFor k t
    | .fault f => .fault f
    | .refused r => .refused r

/-- The run that drives the vectors `vs`, one per cycle, the outputs read after every edge or after none. -/
def runVectors (read : Bool) (vs : List U2) (s : State) : Host.Outcome State Fault Refusal :=
  runFor vs.length (withScript (scriptOf read vs) s)

/-- The vector drives `rst_i` high. -/
def resets (v : U2) : Bool := decide (rstOf v = 1)

/-- The vector is a raw tick that is not discarded: TICK (30_encoding.md R61). -/
def isTick (v : U2) : Bool := decide (decode v = .tick)

/-- The number of raw ticks of a sequence of vectors. -/
def tickCount (vs : List U2) : Nat := vs.countP isTick

/-- The vectors keep `rst_i` low: NOP and TICK only. -/
def noReset (vs : List U2) : Prop := ∀ v ∈ vs, resets v = false

/-- No cycle of the script is read before a RESET has been applied, given whether one has been
(70_reset_and_hazards.md R204 step 2). -/
def readsAfterReset : Bool → List HostCycle → Bool
  | _, [] => true
  | known, c :: cs =>
    let known' := known || resets c.ctrl
    (known' || !c.read) && readsAfterReset known' cs

/-- The number of PWM-programming events in a sequence of readings (43_pwm_writer.md R145). -/
def eventCount (os : List Outputs) : Nat := os.countP fun o => decide (o.updO = 1)

end Sys2Proof.Machine
end

