-- ==== Sys2Proof/Certificates/Slice0/Obligations.lean ====
section
/-! DEFINITION. The statements for the provers, each from the numbered rules of spec/. -/

open Sys2Proof Sys2Proof.Machine

/-! ### Encoding -/

/-- 30_encoding.md R61: the decode of CTRL2, its masks and matches, and the opcode table's three rows. -/
def Obligations.DecodeFollowsTable : Prop :=
  decode 0b00#2 = .nop ∧ decode 0b01#2 = .tick ∧
  decode 0b10#2 = .reset false ∧ decode 0b11#2 = .reset true ∧
  (∀ v, decode v = .nop ↔ v &&& 0b11#2 = 0b00#2) ∧
  (∀ v, decode v = .tick ↔ v &&& 0b11#2 = 0b01#2) ∧
  (∀ v, (∃ t, decode v = .reset t) ↔ v &&& 0b10#2 = 0b10#2) ∧
  opcodeTable = [⟨0b11#2, 0b00#2⟩, ⟨0b11#2, 0b01#2⟩, ⟨0b10#2, 0b10#2⟩]

/-- 30_encoding.md R61, R62: every operation is well-formed and decodes from its own encoding. That every vector, `11` among
them, is also the encoding of the operation it decodes to is the model's choice (log 5): in R61 and R200 RESET is one
operation with `tick_i` a don't-care, and the model keeps CTRL[0] as an operand of it. -/
def Obligations.DecodeAndEncodeAgree : Prop :=
  (∀ i, i.wellFormed = true ∧ decode (encode i) = i) ∧ ∀ v, encode (decode v) = v

/-- The words of spec/opcode_table.json decode to their rows' operations; a word wider than CTRL2 is refused by name
(the refusal is the model's, log 5). -/
def Obligations.TableWordsDecode : Prop :=
  decodeTableWord 8 0 = some .nop ∧ decodeTableWord 8 1 = some .tick ∧
  decodeTableWord 8 2 = some (.reset false) ∧ decodeTableWord 8 3 = some (.reset true) ∧
  ∀ w, 4 ≤ w → w < 256 → decodeTableWord 8 w = none ∧ decodeWord 8 w = .error (.notCtrl2 w)

/-- 30_encoding.md R72: the mnemonics NOP, TICK, RESET and RESET.T, as they are spelled, stand for the vectors 00, 01, 10
and 11; `OP *n` for n consecutive copies; a `#` starts a comment that runs to the end of the line; and the text of any
input lines with counts of at least 1 reads back as their control vectors, one line after another. The text the
statement writes out (one blank before the count, every count written) is the model's (log 11). -/
def Obligations.InputTextReadsBack : Prop :=
  (lineOpVectors .nop = [0b00#2] ∧ lineOpVectors .tick = [0b01#2] ∧
    lineOpVectors .reset = [0b10#2] ∧ lineOpVectors .resetT = [0b11#2]) ∧
  (readLine ['N', 'O', 'P'] = .ok (some ⟨.nop, 1⟩) ∧ readLine ['T', 'I', 'C', 'K'] = .ok (some ⟨.tick, 1⟩) ∧
    readLine ['R', 'E', 'S', 'E', 'T'] = .ok (some ⟨.reset, 1⟩) ∧
    readLine ['R', 'E', 'S', 'E', 'T', '.', 'T'] = .ok (some ⟨.resetT, 1⟩)) ∧
  (lineOpText .nop = ['N', 'O', 'P'] ∧ lineOpText .tick = ['T', 'I', 'C', 'K'] ∧
    lineOpText .reset = ['R', 'E', 'S', 'E', 'T'] ∧ lineOpText .resetT = ['R', 'E', 'S', 'E', 'T', '.', 'T']) ∧
  (∀ n, lineVectors ⟨.nop, n⟩ = List.replicate n 0b00#2 ∧ lineVectors ⟨.tick, n⟩ = List.replicate n 0b01#2 ∧
    lineVectors ⟨.reset, n⟩ = List.replicate n 0b10#2 ∧ lineVectors ⟨.resetT, n⟩ = List.replicate n 0b11#2) ∧
  (∀ op n, lineVectors ⟨op, n⟩ = (List.replicate n (lineOpVectors op)).flatten) ∧
  (∀ op : LineOp, readLine (lineText ⟨op, 0⟩) = .error (.badCount ['*', '0'])) ∧
  (∀ cs comment : List Char, '#' ∉ cs → readLine (cs ++ '#' :: comment) = readLine cs) ∧
  ∀ ls : List InputLine, (∀ l ∈ ls, l.wellFormed = true) →
    readInput (inputText ls) = .ok (ls.flatMap lineVectors)

/-- 30_encoding.md R73: STEP expands to `TICK *4` and performs one advance; CYCLE expands to `TICK *512`, performs 128
advances and returns `phase` and `scaler` to their values before it. -/
def Obligations.PseudoOperationsAdvance : Prop :=
  lineVectors ⟨.step, 1⟩ = lineVectors ⟨.tick, 4⟩ ∧ lineVectors ⟨.cycle, 1⟩ = lineVectors ⟨.tick, 512⟩ ∧
  ∀ s : State, s.known = true →
    (∃ t os, runVectors true (lineVectors ⟨.step, 1⟩) s = .next t ∧ t.readings = s.readings ++ os ∧
      eventCount os = 1 ∧ t.phase = s.phase + 1) ∧
    (∃ t os, runVectors true (lineVectors ⟨.cycle, 1⟩) s = .next t ∧ t.readings = s.readings ++ os ∧
      eventCount os = 128 ∧ t.phase = s.phase ∧ t.scaler = s.scaler)

/-! ### The step -/

/-- 44_tick_step.md R160 with the host's side: the listed cycle's operation runs on the state whose cycle is taken and
whose edge is counted, and then the outputs are read if that cycle reads. Past the listed cycles the vector is the
free `Config.hostCtrl`. The model's choices here: the list of cycles and the free vector past it (log 4), the number an
UNRESET_READ records, which is the edge count after this edge (log 7; 60_exceptions.md R183 says only that the cycle
number is recorded), and that a cycle reads by its flag and appends what is read to `readings` (log 8). -/
def Obligations.StepRunsTheDecodedOperation : Prop :=
  (∀ (s : State) (v : U2) (cs : List HostCycle), s.pending = ⟨v, false⟩ :: cs →
    step s = exec (decode v) { s with pending := cs, cycle := s.cycle + 1 }) ∧
  (∀ (s t : State) (v : U2) (cs : List HostCycle), s.pending = ⟨v, true⟩ :: cs →
    exec (decode v) { s with pending := cs, cycle := s.cycle + 1 } = .next t →
    step s = if t.known then .next { t with readings := t.readings ++ [outputs t] }
      else .fault (.unresetRead t.cycle)) ∧
  (∀ s : State, s.pending = [] →
    step s = exec (decode (Config.hostCtrl s.cycle)) { s with cycle := s.cycle + 1 })

/-- A word of the opcode table placed as the coming cycle's control vector is the operation the next step runs. Placing is
the model's (log 4), no rule of the spec: the placed vector replaces the one listed for the coming cycle, and that cycle
reads nothing. -/
def Obligations.PlacedWordRunsNext : Prop :=
  ∀ (s : State) (nbits w : Nat) (i : Instr), decodeTableWord nbits w = some i →
    step (s.withFetchWord nbits w) = exec i { s with pending := s.pending.tail, cycle := s.cycle + 1 }

/-- 44_tick_step.md R160: STEP selects RESET, then the unknown state, then NOP or TICK, and is total on known states. -/
def Obligations.StepSelectsByResetThenKnownThenTick : Prop :=
  ∀ (s : State) (rst tick : U1),
    (rst = 1 → exec (decode (ctrl rst tick)) s = .next (toResetState s)) ∧
    (rst = 0 → s.known = false → ∃ d, exec (decode (ctrl rst tick)) s = .next (toUnknown d s)) ∧
    (rst = 0 → s.known = true → tick = 0 → exec (decode (ctrl rst tick)) s = .next { s with upd := 0 }) ∧
    (rst = 0 → s.known = true → tick = 1 → ∃ t, exec (decode (ctrl rst tick)) s = .next t ∧
      t.phase = (advance s.phase s.scaler).phase ∧ t.scaler = (advance s.phase s.scaler).scaler ∧
      t.upd = updOf (advance s.phase s.scaler).adv ∧ t.known = true)

/-- 44_tick_step.md R161: from every known state NOP sets `upd` to 0 and changes nothing else. -/
def Obligations.NopClearsTheStrobeOnly : Prop :=
  ∀ s : State, s.known = true → exec .nop s = .next { s with upd := 0 }

/-- 44_tick_step.md R162: from every known state TICK counts, or on the fourth count advances the phase and writes the
duties of the NEW angle to both channel pairs; `upd` tells which. Nothing else changes. -/
def Obligations.TickCountsOrAdvances : Prop :=
  ∀ s : State, s.known = true →
    (s.scaler ≠ 3 → exec .tick s = .next { s with scaler := s.scaler + 1, upd := 0 }) ∧
    (s.scaler = 3 → ∃ sample d, sine s.rom (s.phase + 1) = .ok sample ∧ drive sample = .ok d ∧
      (d.pos.toNat, d.neg.toNat) = dutyTable s.rom (s.phase + 1).toNat ∧
      exec .tick s = .next
        { s with
          phase := s.phase + 1, scaler := 0, dutyA0 := d.pos, dutyA1 := d.pos, dutyB0 := d.neg, dutyB1 := d.neg,
          upd := 1 })

/-- 70_reset_and_hazards.md R200: RESET, with or without a tick, gives RESET_STATE from every state, known or unknown. -/
def Obligations.ResetGivesResetState : Prop :=
  ∀ (s : State) (t : Bool), exec (.reset t) s = .next
    { s with
      phase := 0, scaler := 0, dutyA0 := 0, dutyA1 := 0, dutyB0 := 0, dutyB1 := 0, upd := 0, known := true }

/-- 70_reset_and_hazards.md R201: the tick offered with a reset is discarded: after the edge `scaler` is 0, and it takes
four more raw ticks to the next advance. -/
def Obligations.TickOfferedWithResetIsDiscarded : Prop :=
  ∀ (s : State) (n : Nat), n ≤ 4 →
    ∃ t os, runVectors true (0b11#2 :: List.replicate n 0b01#2) s = .next t ∧ t.readings = s.readings ++ os ∧
      (n = 0 → t.scaler = 0) ∧ eventCount os = if n = 4 then 1 else 0

/-- 70_reset_and_hazards.md R202: every cycle with `rst_i = 1` produces RESET_STATE, for as long as it is held, and a NOP
or TICK after it starts from RESET_STATE. -/
def Obligations.HeldResetKeepsResetState : Prop :=
  ∀ (s : State) (vs : List U2), vs ≠ [] → (∀ v ∈ vs, resets v = true) →
    runVectors false vs s = .next { toResetState s with pending := [], cycle := s.cycle + vs.length } ∧
    ∀ v, resets v = false →
      runVectors false (vs ++ [v]) s =
        exec (decode v) { toResetState s with pending := [], cycle := s.cycle + vs.length + 1 }

/-- 44_tick_step.md R167: from an unknown state NOP and TICK lead to an unknown state, whatever the registers then hold,
and only RESET leads to a known one. The configuration and the host's side stay. -/
def Obligations.OnlyResetLeavesTheUnknownState : Prop :=
  (∀ s : State, s.known = false →
    (∃ d, exec .nop s = .next (toUnknown d s)) ∧ (∃ d, exec .tick s = .next (toUnknown d s))) ∧
  (∀ (i : Instr) (s t : State), s.known = false → exec i s = .next t → (t.known = true ↔ ∃ b, i = .reset b)) ∧
  (∀ (s : State) (vs : List U2), s.known = false → noReset vs →
    ∃ t, runVectors false vs s = .next t ∧ t.known = false)

/-- 10_state.md R21, R22, R25; 41_phase_clock.md R106; 43_pwm_writer.md R144: of the operations on a known state, only an
advancing TICK and RESET change `phase` or a duty register, and only TICK and RESET change `scaler`. -/
def Obligations.WritersOfEachRegister : Prop :=
  ∀ (i : Instr) (s : State), s.known = true → ∃ t, exec i s = .next t ∧ t.known = true ∧
    (t.phase ≠ s.phase → (∃ b, i = .reset b) ∨ (i = .tick ∧ s.scaler = 3)) ∧
    (t.scaler ≠ s.scaler → (∃ b, i = .reset b) ∨ i = .tick) ∧
    ∀ r, dutyOut r t ≠ dutyOut r s → (∃ b, i = .reset b) ∨ (i = .tick ∧ s.scaler = 3)

/-- 20_memory.md R40, R54 and the host's side: no operation changes any byte of the ROM, the listed cycles, the edge count
or the readings. -/
def Obligations.OperationsKeepRomAndHostSide : Prop :=
  ∀ (i : Instr) (s t : State), exec i s = .next t →
    t.rom = s.rom ∧ t.pending = s.pending ∧ t.cycle = s.cycle ∧ t.readings = s.readings ∧
    ∀ a, t.rom.cells.read a = s.rom.cells.read a

/-- 20_memory.md R40: the table is constant for the block's lifetime, over every run. -/
def Obligations.RomIsConstantOverRuns : Prop :=
  ∀ (k : Nat) (s t : State), runFor k s = .next t → t.rom = s.rom

/-- 20_memory.md R48, 43_pwm_writer.md R142: one operation on a known state leaves all four duty registers as they were,
or all four at the pair of the angle then on `phase_o`. -/
def Obligations.DutiesChangeTogether : Prop :=
  ∀ (i : Instr) (s : State), s.known = true → ∃ t, exec i s = .next t ∧
    ((∀ r, dutyOut r t = dutyOut r s) ∨ ∃ d, dutyOf s.rom t.phase = .ok d ∧ holdsDuty t d)

/-- 10_state.md R26: the next value of `upd`; before the first RESET it is unknown with the rest. -/
def Obligations.StrobeMarksAdvances : Prop :=
  ∀ (s : State) (rst tick : U1), ∃ t, exec (decode (ctrl rst tick)) s = .next t ∧
    (s.known = true → t.upd = if rst = 0 ∧ tick = 1 ∧ s.scaler = 3 then 1 else 0) ∧
    (s.known = true → t.upd = nextUpd rst tick s.scaler) ∧
    (s.known = false → rst = 0 → t.known = false)

/-! ### The invariant of 10_state.md R30 -/

/-- Every step keeps the clauses of 10_state.md R30 on every state, whatever the host drives or reads. -/
def Obligations.StepKeepsConsistency : Prop :=
  ∀ s t : State, Inv s → step s = .next t → Inv t

/-- The state after reset meets the invariant, with any configured table (10_state.md R30, R31). -/
def Obligations.ResetStateIsConsistent : Prop :=
  Inv State.reset ∧ ∀ (s t : State) (b : Bool), exec (.reset b) s = .next t → t.known = true ∧ Consistent t

/-- 10_state.md R30: after a RESET, and for as long as no later RESET intervenes, every state reached is consistent. -/
def Obligations.ConsistentAfterReset : Prop :=
  ∀ (s : State) (b : U1) (vs : List U2), noReset vs → ∃ t, runVectors false (ctrl 1 b :: vs) s = .next t ∧
    t.dutyA0 = t.dutyA1 ∧ t.dutyB0 = t.dutyB1 ∧
    dutyOf t.rom t.phase = .ok ⟨t.dutyA0, t.dutyB0⟩ ∧
    (t.dutyA0 = 0 ∨ t.dutyB0 = 0) ∧
    (∀ r, (dutyOut r t).toNat % 2 = 0 ∧ (dutyOut r t).toNat ≤ 254) ∧
    (t.upd = 1 → t.scaler = 0)

/-- 10_state.md R33: from a state whose last edge advanced, j raw ticks (j ≤ 3) with NOPs anywhere leave `scaler` at j. -/
def Obligations.ScalerIsTicksSinceStrobe : Prop :=
  ∀ (s : State) (vs : List U2), s.known = true → Consistent s → s.upd = 1 → noReset vs → tickCount vs ≤ 3 →
    ∃ t, runVectors false vs s = .next t ∧ t.scaler.toNat = tickCount vs

/-! ### Runs -/

/-- 41_phase_clock.md R104: the counting laws of raw ticks from any known state, NOPs anywhere. -/
def Obligations.RawTicksAreCounted : Prop :=
  (∀ (s : State) (vs : List U2), s.known = true → noReset vs →
    ∃ t os, runVectors true vs s = .next t ∧ t.readings = s.readings ++ os ∧ os.length = vs.length ∧
      t.scaler.toNat = (s.scaler.toNat + tickCount vs) % 4 ∧
      t.phase.toNat = (s.phase.toNat + (s.scaler.toNat + tickCount vs) / 4) % 128 ∧
      eventCount os = (s.scaler.toNat + tickCount vs) / 4 ∧
      (tickCount vs = 4 → eventCount os = 1 ∧ t.scaler = s.scaler) ∧
      (s.scaler = 0 → tickCount vs ≤ 3 → eventCount os = 0) ∧
      (tickCount vs = 512 → eventCount os = 128 ∧ t.phase = s.phase ∧ t.scaler = s.scaler)) ∧
  (∀ (s : State) (us : List U2), s.known = true → s.scaler = 0 → noReset us → tickCount us = 3 →
    ∃ t, runVectors true (us ++ [0b01#2]) s = .next t ∧ t.upd = 1) ∧
  (∀ (s : State) (b : U1) (vs : List U2), noReset vs →
    ∃ t, runVectors true (ctrl 1 b :: vs) s = .next t ∧
      t.phase.toNat = tickCount vs / 4 % 128 ∧ t.scaler.toNat = tickCount vs % 4)

/-- 43_pwm_writer.md R145: 512 raw ticks from any known state perform exactly 128 PWM-programming events, one for each
angle, and the duties written at p and at p + 64 are swapped. -/
def Obligations.FullCycleProgramsEveryAngleOnce : Prop :=
  ∀ (s : State) (vs : List U2), s.known = true → noReset vs → tickCount vs = 512 →
    ∃ t os, runVectors true vs s = .next t ∧ t.readings = s.readings ++ os ∧ eventCount os = 128 ∧
      (∀ p : U7, (os.countP fun o => decide (o.updO = 1 ∧ o.phaseO = p)) = 1) ∧
      ∀ o ∈ os, ∀ o' ∈ os, o.updO = 1 → o'.updO = 1 → o'.phaseO = o.phaseO + 64 →
        o'.dutyA0O = o.dutyB0O ∧ o'.dutyB0O = o.dutyA0O ∧ o.dutyA1O = o.dutyA0O ∧ o.dutyB1O = o.dutyB0O

/-- 70_reset_and_hazards.md R213: after a RESET the first advance comes on the fourth raw tick, into angle 1; until then
all duties and `upd` stay 0. -/
def Obligations.FirstAdvanceAfterReset : Prop :=
  ∀ (s : State) (b : U1) (vs : List U2), noReset vs →
    (tickCount vs ≤ 3 → ∃ t os, runVectors true (ctrl 1 b :: vs) s = .next t ∧ t.readings = s.readings ++ os ∧
      ∀ o ∈ os, o = ⟨0, 0, 0, 0, 0, 0⟩) ∧
    (tickCount vs = 3 → ∃ t, runVectors true (ctrl 1 b :: (vs ++ [0b01#2])) s = .next t ∧ t.upd = 1 ∧ t.phase = 1)

/-- 70_reset_and_hazards.md R223, 60_exceptions.md R195: a host that never ticks leaves the block frozen at its state. -/
def Obligations.WithoutTicksTheBlockIsFrozen : Prop :=
  ∀ (s : State) (n : Nat), s.known = true →
    runVectors false (List.replicate (n + 1) 0b00#2) s =
      .next { s with upd := 0, pending := [], cycle := s.cycle + (n + 1) }

/-- 20_memory.md R51, 10_state.md R28: from a RESET on, the outputs are determined by the table and the later vectors:
two machines with one table and any histories, known or unknown, read the same output sequence. -/
def Obligations.OutputsForgetEverythingBeforeReset : Prop :=
  ∀ (s s' : State) (b : U1) (vs : List U2), s.rom = s'.rom →
    ∃ t t' os, runVectors true (ctrl 1 b :: vs) s = .next t ∧ runVectors true (ctrl 1 b :: vs) s' = .next t' ∧
      t.readings = s.readings ++ os ∧ t'.readings = s'.readings ++ os ∧ os.length = vs.length + 1 ∧
      t.toRegs = t'.toRegs

/-! ### Faults -/

/-- 10_state.md R27, R28; 60_exceptions.md R183: reading the outputs gives the registers of a known state, and
UNRESET_READ with the cycle's number of an unknown one (how cycles are counted is the model's, log 7). -/
def Obligations.ReadingGivesThePortsOrUnresetRead : Prop :=
  ∀ s : State,
    (s.known = true → readOutputs s = .next
      { phaseO := s.phase, dutyA0O := s.dutyA0, dutyA1O := s.dutyA1, dutyB0O := s.dutyB0, dutyB1O := s.dutyB1,
        updO := s.upd }) ∧
    (s.known = false → readOutputs s = .fault (.unresetRead s.cycle))

/-- 60_exceptions.md R182, R183: a step never refuses, and it faults exactly where the host reads the outputs after an
edge before the first RESET (how cycles are counted is the model's, log 7). -/
def Obligations.StepFaultsExactlyOnUnresetRead : Prop :=
  ∀ s : State, (∀ r, step s ≠ .refused r) ∧
    ∀ f, step s = .fault f ↔
      (f = .unresetRead (s.cycle + 1) ∧ s.known = false ∧
        ∃ c cs, s.pending = c :: cs ∧ c.read = true ∧ resets c.ctrl = false)

/-- 60_exceptions.md R182: the three cases of DOMAIN, each with its stage and offending value; STEP never raises it. -/
def Obligations.DomainFaultsOutsideTheDomainsOnly : Prop :=
  (∀ (rom : SineRom) (a : Nat), 128 ≤ a → sineAt rom a = .error (.domain .sine a)) ∧
  (∀ (rom : SineRom) (a : U7), sineAt rom a.toNat = sine rom a ∧ ∃ v, sine rom a = .ok v) ∧
  split 255 = .error (.domain .split 255) ∧ (∀ s : U8, s ≠ 255 → ∃ p, split s = .ok p) ∧
  (∀ (rom : SineRom) (i : U6), 32 ≤ i.toNat → romRead rom i = .error (.domain .rom i.toNat)) ∧
  (∀ (rom : SineRom) (i : U6), i.toNat < 32 → ∃ b, rom.cells.read i.toNat = some b ∧ romRead rom i = .ok b) ∧
  ∀ (s : State) (stage : Stage) (v : Nat), step s ≠ .fault (.domain stage v)

/-- 60_exceptions.md R181, R183: a reading before the first RESET ends the run with UNRESET_READ and the reading's cycle,
and no later cycle, a RESET among them, clears it (that a fault ends the run is log 12, the number log 7). -/
def Obligations.UnresetReadIsNeverCleared : Prop :=
  ∀ (s : State) (vs : List U2) (v : U2) (cs : List HostCycle) (k : Nat),
    s.known = false → noReset vs → resets v = false → vs.length < k →
    runFor k (withScript (scriptOf false vs ++ ⟨v, true⟩ :: cs) s) =
      .fault (.unresetRead (s.cycle + vs.length + 1))

/-- 60_exceptions.md R181: whatever answers an operation, a step, a reading of the outputs or a configuration stops, if it
stops, with one of the three failure reasons, whose codes are 1, 2 and 3; BAD_TABLE alone is a refusal; and a fault once
recorded is never cleared in the run, whatever cycles follow (that it ends the run is log 12). The constructor the
host's interface adds to `Refusal` is none of the three, and no answer holds it (log 13). -/
def Obligations.FailuresAreTheThreeReasons : Prop :=
  (∀ r : FailureReason, reasonCode r = 1 ∨ reasonCode r = 2 ∨ reasonCode r = 3) ∧
  (∀ r : FailureReason, (reasonCode r = 1 ↔ ∃ stage v, r = .domain stage v) ∧
    (reasonCode r = 2 ↔ ∃ n, r = .unresetRead n) ∧ (reasonCode r = 3 ↔ ∃ d, r = .badTable d)) ∧
  (∀ f : Fault, reasonCode (faultReason f) ≠ 3) ∧
  (∀ (i : Instr) (s : State), ∃ t, exec i s = .next t) ∧
  (∀ s : State, stopsOnlyWithReason (step s) = true ∧
    (stopReason (step s) = none ∨ stopReason (step s) = some (.unresetRead (s.cycle + 1)))) ∧
  (∀ s : State, stopReason (readOutputs s) = none ∧ s.known = true ∨
    stopReason (readOutputs s) = some (.unresetRead s.cycle) ∧ s.known = false) ∧
  (∀ (n : Nat) (T : List U8), (∃ s, powerOn n T = .next s ∧ tableDefect T = none) ∨
    ∃ d, powerOn n T = .refused (.badTable d) ∧ tableDefect T = some d ∧
      stopReason (powerOn n T) = some (.badTable d)) ∧
  (∀ (k n : Nat) (s : State) (f : Fault), runFor k s = .fault f → runFor (k + n) s = .fault f) ∧
  ∀ (k : Nat) (s : State), stopsOnlyWithReason (runFor k s) = true

/-- 70_reset_and_hazards.md R204: a run whose outputs are read only from a RESET on never faults and is never refused,
however long it is. Past the listed cycles the vector is free and nothing is read, which is the model's choice (log 4). -/
def Obligations.RunsReadAfterResetNeverStop : Prop :=
  ∀ (s : State) (k : Nat), readsAfterReset s.known s.pending = true → ∃ t, runFor k s = .next t

/-- 10_state.md R32, 70_reset_and_hazards.md R203: after power-on the state is unknown and no output is read (how
cycles are counted is the model's, log 7). -/
def Obligations.PowerOnIsUnknown : Prop :=
  ∀ (n : Nat) (rom : SineRom), (powerOnState n rom).known = false ∧ (powerOnState n rom).rom = rom ∧
    readOutputs (powerOnState n rom) = .fault (.unresetRead 0) ∧
    ∀ (vs : List U2) (t : State), noReset vs → runVectors false vs (powerOnState n rom) = .next t →
      readOutputs t = .fault (.unresetRead vs.length)

/-- 40_sine_lut.md R81: a table is accepted exactly when it meets the four items, and is otherwise refused with BAD_TABLE
before any step. -/
def Obligations.TableAcceptedExactlyWhenWellFormed : Prop :=
  ∀ (n : Nat) (T : List U8),
    ((∃ rom, powerOn n T = .next (powerOnState n rom) ∧ rom.cells.bytes = T) ↔
      (T.length = 32 ∧ (∀ b ∈ T, b.toNat ≤ 127) ∧ T[0]? = some 0 ∧
        ∀ (i : Nat) (b c : U8), T[i]? = some b → T[i + 1]? = some c → b.toNat ≤ c.toNat)) ∧
    ((∃ rom, powerOn n T = .next (powerOnState n rom) ∧ rom.cells.bytes = T) ∨
      ∃ d, powerOn n T = .refused (.badTable d))

/-- 60_exceptions.md R184: what a BAD_TABLE refusal records. That the lowest-numbered broken item is the one recorded, and
that a wrong length records no index, is the model's reading (log 6). -/
def Obligations.BadTableRecordsItemAndFirstIndex : Prop :=
  ∀ (T : List U8) (d : TableDefect), loadTable T = .refused (.badTable d) →
    (d.item = .length ∧ d.index = none ∧ T.length ≠ 32) ∨
    (d.item = .range ∧ T.length = 32 ∧ ∃ i b, d.index = some i ∧ T[i]? = some b ∧ 127 < b.toNat ∧
      ∀ (j : Nat) (c : U8), j < i → T[j]? = some c → c.toNat ≤ 127) ∨
    (d.item = .zeroStart ∧ T.length = 32 ∧ (∀ b ∈ T, b.toNat ≤ 127) ∧ d.index = some 0 ∧ T[0]? ≠ some 0) ∨
    (d.item = .nonDecreasing ∧ T.length = 32 ∧ (∀ b ∈ T, b.toNat ≤ 127) ∧ T[0]? = some 0 ∧
      ∃ i b c, d.index = some (i + 1) ∧ T[i]? = some b ∧ T[i + 1]? = some c ∧ c.toNat < b.toNat ∧
        ∀ (j : Nat) (x y : U8), j < i → T[j]? = some x → T[j + 1]? = some y → x.toNat ≤ y.toNat)

/-! ### The stages -/

/-- 41_phase_clock.md R100, R101: ADVANCE. -/
def Obligations.AdvanceFollowsItsRule : Prop :=
  ∀ (p : U7) (c : U2),
    (c.toNat = 3 → (advance p c).phase.toNat = (p.toNat + 1) % 128 ∧ (advance p c).scaler = 0 ∧
      (advance p c).adv = true) ∧
    (c.toNat ≠ 3 → (advance p c).phase = p ∧ (advance p c).scaler.toNat = c.toNat + 1 ∧
      (advance p c).adv = false)

/-- 30_encoding.md R67: the fold index is in 0..32, within its band's range, and is 32 only at angles 32 and 96. -/
def Obligations.FoldIndexRanges : Prop :=
  ∀ a : U7, (foldIndex a).toNat ≤ 32 ∧ ((foldIndex a).toNat = 32 ↔ a.toNat = 32 ∨ a.toNat = 96) ∧
    (bandOf a = .q2 → (foldIndex a).toNat ≤ 31) ∧
    (bandOf a = .q3 → 1 ≤ (foldIndex a).toNat) ∧
    (bandOf a = .q4 → 1 ≤ (foldIndex a).toNat ∧ (foldIndex a).toNat ≤ 31)

/-- 30_encoding.md R66: the sample of every angle, by its band, for every well-formed table. -/
def Obligations.SineFollowsTheBands : Prop :=
  ∀ (rom : SineRom) (a : U7), ∃ v, sine rom a = .ok v ∧ v.toNat = sineTable rom a.toNat

/-- 40_sine_lut.md R85: SINE is in 0..254, at or above 127 up to angle 64 and at or below it from there on, and equals 127
elsewhere than at 0 and 64 only where the folded entry is 0. -/
def Obligations.SineStaysInRange : Prop :=
  ∀ (rom : SineRom) (a : U7), ∃ q v, quarter rom (foldIndex a) = .ok q ∧ sine rom a = .ok v ∧ v.toNat ≤ 254 ∧
    (v.toNat = 127 + q.toNat ∨ v.toNat + q.toNat = 127) ∧
    (a.toNat ≤ 64 → 127 ≤ v.toNat) ∧ (64 ≤ a.toNat → v.toNat ≤ 127) ∧
    (a.toNat = 0 ∨ a.toNat = 64 → v.toNat = 127) ∧
    (v.toNat = 127 → a.toNat ≠ 0 → a.toNat ≠ 64 → romRead rom (foldIndex a) = .ok 0)

/-- 40_sine_lut.md R86: SINE rises on 0..32, falls on 32..96 and rises on 96..127, from 127 at 0 to 254 at 32. -/
def Obligations.SineIsMonotoneByQuarters : Prop :=
  ∀ rom : SineRom, sine rom 0 = .ok 127 ∧ sine rom 32 = .ok 254 ∧
    ∀ a b : U7, a.toNat ≤ b.toNat → ∃ v w, sine rom a = .ok v ∧ sine rom b = .ok w ∧
      (b.toNat ≤ 32 → v.toNat ≤ w.toNat) ∧
      (32 ≤ a.toNat → b.toNat ≤ 96 → w.toNat ≤ v.toNat) ∧
      (96 ≤ a.toNat → v.toNat ≤ w.toNat)

/-- 40_sine_lut.md R87: the aligned-quadrant closed form agrees with SINE at every angle. -/
def Obligations.AlignedFormEqualsSine : Prop :=
  ∀ (rom : SineRom) (a : U7), sineAligned rom a = sine rom a

/-- 40_sine_lut.md R88: half-cycle inversion, at every angle modulo 128. -/
def Obligations.HalfCycleInversion : Prop :=
  ∀ (rom : SineRom) (a : U7), ∃ v w, sine rom a = .ok v ∧ sine rom (a + 64) = .ok w ∧ v.toNat + w.toNat = 254

/-- 40_sine_lut.md R89: quarter symmetry. -/
def Obligations.QuarterSymmetry : Prop :=
  ∀ (rom : SineRom) (n : Nat),
    (n ≤ 64 → ∃ v, sine rom (trunc 7 n) = .ok v ∧ sine rom (trunc 7 (64 - n)) = .ok v) ∧
    (1 ≤ n → n ≤ 63 → ∃ v, sine rom (trunc 7 (64 + n)) = .ok v ∧ sine rom (trunc 7 (128 - n)) = .ok v)

/-- 42_splitter.md R123: the laws of SPLIT for every sample 0..254, and of DRIVE with both values doubled. -/
def Obligations.SplitLaws : Prop :=
  ∀ s : U8, s.toNat ≤ 254 → ∃ p m d, split s = .ok p ∧ split (254 - s) = .ok m ∧ drive s = .ok d ∧
    (p.pos = 0 ∨ p.neg = 0) ∧ (s = 127 → p.pos = 0 ∧ p.neg = 0) ∧
    (s ≠ 127 → ¬(p.pos = 0 ∧ p.neg = 0)) ∧
    p.pos.toNat + p.neg.toNat = (s.toNat - 127) + (127 - s.toNat) ∧
    (p.pos.toNat : Int) - p.neg.toNat = (s.toNat : Int) - 127 ∧
    m.pos = p.neg ∧ m.neg = p.pos ∧ d.pos.toNat = 2 * p.pos.toNat ∧ d.neg.toNat = 2 * p.neg.toNat

/-- 42_splitter.md R122: DRIVE written out. -/
def Obligations.DriveWrittenOut : Prop :=
  ∀ s : U8, s.toNat ≤ 254 → ∃ p d, split s = .ok p ∧ drive s = .ok d ∧ d.pos = scale p.pos ∧ d.neg = scale p.neg ∧
    (d.pos.toNat : Int) = 2 * max ((s.toNat : Int) - 127) 0 ∧
    (d.neg.toNat : Int) = 2 * max (127 - (s.toNat : Int)) 0

/-- 42_splitter.md R121, 30_encoding.md R70: SCALE doubles within 0..254, keeps the level in bits 7..1, and is injective. -/
def Obligations.ScaleDoublesTheLevel : Prop :=
  ∀ l m : U7, (scale l).toNat = 2 * l.toNat ∧ (scale l).toNat ≤ 254 ∧ levelOfDuty (scale l) = l ∧
    (scale l).getLsbD 0 = false ∧ (scale l = scale m → l = m)

/-- 43_pwm_writer.md R141, R143: PROGRAM writes `dpos` to both sub-channels of pair A and `dneg` to both of pair B, and
nothing else. -/
def Obligations.ProgramWritesBothPairs : Prop :=
  ∀ (d : DutyPair) (s : State), program d s =
    { s with dutyA0 := d.pos, dutyA1 := d.pos, dutyB0 := d.neg, dutyB1 := d.neg }

/-- 44_tick_step.md R164: DUTY is DRIVE of SINE, and equals the written-out table at every angle. -/
def Obligations.DutyEqualsItsTable : Prop :=
  ∀ (rom : SineRom) (a : U7), ∃ v d, sine rom a = .ok v ∧ drive v = .ok d ∧ dutyOf rom a = .ok d ∧
    (d.pos.toNat, d.neg.toNat) = dutyTable rom a.toNat

/-- 44_tick_step.md R165: the laws of DUTY. -/
def Obligations.DutyLaws : Prop :=
  ∀ (rom : SineRom) (a : U7), ∃ d, dutyOf rom a = .ok d ∧
    (64 ≤ a.toNat → d.pos = 0) ∧ (a.toNat ≤ 64 → d.neg = 0) ∧
    dutyOf rom (a + 64) = .ok d.swap ∧
    (a.toNat ≤ 64 → dutyOf rom (64 - a) = .ok d) ∧
    dutyLegal d.pos ∧ dutyLegal d.neg
end

