-- ==== Sys2Proof/Laws/Memory.lean ====
section
/-! SUPPORT. The sine ROM: the canonical form of its cells, which its one builder makes and nothing writes, and what
the well-formedness check gives (spec/20_memory.md R40, R41; spec/40_sine_lut.md R81). -/

namespace Sys2Proof.Machine

/-- Consecutive bytes are in canonical form, from their own start address on. -/
theorem Memory.ofBytes_risingFrom (T : List U8) : ∀ a, Memory.risingFrom a (Memory.ofBytes a T) = true := by
  induction T with
  | nil => intro a; rfl
  | cons b T ih => intro a; simp [Memory.ofBytes, Memory.risingFrom, ih]

/-- The one builder of a memory makes the canonical form. -/
theorem Memory.ofBytes_wf (T : List U8) : (Memory.ofBytes 0 T).wf = true := Memory.ofBytes_risingFrom T 0

/-- The bytes of a built memory are the bytes it was built from. -/
@[simp] theorem Memory.bytes_ofBytes (T : List U8) : ∀ a, (Memory.ofBytes a T).bytes = T := by
  induction T with
  | nil => intro a; rfl
  | cons b T ih => intro a; simpa [Memory.ofBytes, Memory.bytes] using ih (a + 1)

/-- A built memory lists one address per byte, from its start on. -/
@[simp] theorem Memory.addresses_ofBytes (T : List U8) :
    ∀ a, (Memory.ofBytes a T).map Prod.fst = List.range' a T.length := by
  induction T with
  | nil => intro a; rfl
  | cons b T ih => intro a; simpa [Memory.ofBytes, List.range'] using ih (a + 1)

/-- A built memory has as many cells as bytes. -/
@[simp] theorem Memory.length_ofBytes (T : List U8) : ∀ a, (Memory.ofBytes a T).length = T.length := by
  induction T with
  | nil => intro a; rfl
  | cons b T ih => intro a; simp [Memory.ofBytes, ih]

/-- A memory whose addresses count up from `a` is built from its own bytes. -/
theorem Memory.eq_ofBytes (m : Memory) : ∀ a, m.map Prod.fst = List.range' a m.length →
    m = Memory.ofBytes a m.bytes := by
  induction m with
  | nil => intro a _; rfl
  | cons c m ih =>
    intro a h
    obtain ⟨k, b⟩ := c
    simp only [List.map_cons, List.length_cons, List.range'_succ, List.cons.injEq] at h
    have tail := ih (a + 1) h.2
    simp only [Memory.bytes, List.map_cons, Memory.ofBytes] at *
    rw [← tail, h.1]

/-- Reading a built memory is indexing its bytes. -/
theorem Memory.read_ofBytes (T : List U8) : ∀ a i, (Memory.ofBytes a T).read (a + i) = T[i]? := by
  induction T with
  | nil => intro a i; simp [Memory.ofBytes, Memory.read]
  | cons b T ih =>
    intro a i
    cases i with
    | zero => simp [Memory.ofBytes, Memory.read]
    | succ i =>
      have := ih (a + 1) i
      simp only [Memory.ofBytes, Memory.read, List.getElem?_cons_succ]
      rw [if_neg (by omega), ← this]
      congr 1
      omega

/-- An empty report of `firstAbove` means that every byte is at most 127. -/
theorem le_of_firstAbove_none (T : List U8) : ∀ p, firstAbove p T = none → ∀ b ∈ T, b.toNat ≤ 127 := by
  induction T with
  | nil => intro p _ b hb; cases hb
  | cons c T ih =>
    intro p h b hb
    simp only [firstAbove] at h
    split at h
    · cases h
    · rcases List.mem_cons.mp hb with rfl | hb
      · omega
      · exact ih _ h b hb

/-- An empty report of `firstDrop` means that neighbouring bytes never fall. -/
theorem le_succ_of_firstDrop_none (T : List U8) : ∀ p, firstDrop p T = none →
    ∀ i (h : i + 1 < T.length), T[i].toNat ≤ T[i + 1].toNat := by
  induction T with
  | nil => intro p _ i h; simp at h
  | cons b T ih =>
    intro p hd i h
    cases T with
    | nil => simp at h
    | cons c T =>
      simp only [firstDrop] at hd
      split at hd
      · cases hd
      · cases i with
        | zero => simpa using by omega
        | succ i => exact ih _ hd i (by simpa using h)

/-- What the check of a table gives when it finds no defect: the four items of 40_sine_lut.md R81. -/
theorem tableDefect_none {T : List U8} (h : tableDefect T = none) :
    T.length = 32 ∧ (∀ b ∈ T, b.toNat ≤ 127) ∧ T.head? = some 0 ∧
      ∀ i (hi : i + 1 < T.length), T[i].toNat ≤ T[i + 1].toNat := by
  unfold tableDefect at h
  split at h
  · cases h
  · rename_i hlen
    split at h
    · cases h
    · rename_i habove
      split at h
      · cases h
      · rename_i hzero
        split at h
        · cases h
        · rename_i hdrop
          exact ⟨by simpa using hlen, le_of_firstAbove_none T 0 habove, by simpa using hzero,
            le_succ_of_firstDrop_none T 0 hdrop⟩

/-- The cells of a ROM are the table's bytes at the indices from 0 on. -/
theorem rom_cells_eq (rom : SineRom) : rom.cells = Memory.ofBytes 0 rom.cells.bytes := by
  have h := rom.ok
  unfold romDefect at h
  split at h
  · cases h
  · rename_i ha
    exact Memory.eq_ofBytes _ 0 (by simpa [List.range_eq_range'] using ha)

/-- The bytes of a ROM are a well-formed table. -/
theorem rom_table_ok (rom : SineRom) : tableDefect rom.cells.bytes = none := by
  have h := rom.ok
  unfold romDefect at h
  split at h
  · cases h
  · exact h

/-- The memory of every state, the one after reset among them, is in canonical form. -/
theorem rom_cells_wf (rom : SineRom) : rom.cells.wf = true := by
  rw [rom_cells_eq rom]
  exact Memory.ofBytes_wf _

/-- The canonical form holds at reset. -/
theorem State.reset_memory_wf : State.reset.rom.cells.wf = true := rom_cells_wf _

/-- Reading a ROM is indexing the table. -/
theorem rom_read_eq (rom : SineRom) (i : Nat) : rom.cells.read i = rom.cells.bytes[i]? := by
  have h := Memory.read_ofBytes rom.cells.bytes 0 i
  rw [← rom_cells_eq rom] at h
  simpa using h

/-- Everything a ROM read can do: inside 0..31 it answers a byte of at most 127, outside it raises DOMAIN. -/
theorem romRead_cases (rom : SineRom) (i : U6) :
    (i.toNat < 32 ∧ ∃ b, rom.cells.read i.toNat = some b ∧ romRead rom i = .ok b ∧ b.toNat ≤ 127) ∨
      (32 ≤ i.toNat ∧ romRead rom i = .error (.domain .rom i.toNat)) := by
  obtain ⟨hlen, hle, -, -⟩ := tableDefect_none (rom_table_ok rom)
  by_cases hi : i.toNat < 32
  · have hb : rom.cells.read i.toNat = some (rom.cells.bytes[i.toNat]'(by omega)) := by
      rw [rom_read_eq, List.getElem?_eq_getElem]
    exact .inl ⟨hi, _, hb, by simp [romRead, hb], hle _ (List.getElem_mem _)⟩
  · have hb : rom.cells.read i.toNat = none := by
      rw [rom_read_eq, List.getElem?_eq_none]
      omega
    exact .inr ⟨by omega, by simp [romRead, hb]⟩

end Sys2Proof.Machine
end

