-- ==== Sys2Proof/Laws/State.lean ====
section
/-! SUPPORT. One lemma per field per state update, each true by computation, so that no proof unfolds an update. -/

namespace Sys2Proof.Machine

section
variable (s : State)

@[simp] theorem takeCycle_phase : (takeCycle s).phase = s.phase := rfl
@[simp] theorem takeCycle_scaler : (takeCycle s).scaler = s.scaler := rfl
@[simp] theorem takeCycle_dutyA0 : (takeCycle s).dutyA0 = s.dutyA0 := rfl
@[simp] theorem takeCycle_dutyA1 : (takeCycle s).dutyA1 = s.dutyA1 := rfl
@[simp] theorem takeCycle_dutyB0 : (takeCycle s).dutyB0 = s.dutyB0 := rfl
@[simp] theorem takeCycle_dutyB1 : (takeCycle s).dutyB1 = s.dutyB1 := rfl
@[simp] theorem takeCycle_upd : (takeCycle s).upd = s.upd := rfl
@[simp] theorem takeCycle_known : (takeCycle s).known = s.known := rfl
@[simp] theorem takeCycle_rom : (takeCycle s).rom = s.rom := rfl
@[simp] theorem takeCycle_pending : (takeCycle s).pending = s.pending.tail := rfl
@[simp] theorem takeCycle_cycle : (takeCycle s).cycle = s.cycle + 1 := rfl
@[simp] theorem takeCycle_readings : (takeCycle s).readings = s.readings := rfl

@[simp] theorem withScript_phase (cs : List HostCycle) : (withScript cs s).phase = s.phase := rfl
@[simp] theorem withScript_scaler (cs : List HostCycle) : (withScript cs s).scaler = s.scaler := rfl
@[simp] theorem withScript_dutyA0 (cs : List HostCycle) : (withScript cs s).dutyA0 = s.dutyA0 := rfl
@[simp] theorem withScript_dutyA1 (cs : List HostCycle) : (withScript cs s).dutyA1 = s.dutyA1 := rfl
@[simp] theorem withScript_dutyB0 (cs : List HostCycle) : (withScript cs s).dutyB0 = s.dutyB0 := rfl
@[simp] theorem withScript_dutyB1 (cs : List HostCycle) : (withScript cs s).dutyB1 = s.dutyB1 := rfl
@[simp] theorem withScript_upd (cs : List HostCycle) : (withScript cs s).upd = s.upd := rfl
@[simp] theorem withScript_known (cs : List HostCycle) : (withScript cs s).known = s.known := rfl
@[simp] theorem withScript_rom (cs : List HostCycle) : (withScript cs s).rom = s.rom := rfl
@[simp] theorem withScript_pending (cs : List HostCycle) : (withScript cs s).pending = cs := rfl
@[simp] theorem withScript_cycle (cs : List HostCycle) : (withScript cs s).cycle = s.cycle := rfl
@[simp] theorem withScript_readings (cs : List HostCycle) : (withScript cs s).readings = s.readings := rfl

@[simp] theorem toUnknown_phase (d : Regs) : (toUnknown d s).phase = d.phase := rfl
@[simp] theorem toUnknown_scaler (d : Regs) : (toUnknown d s).scaler = d.scaler := rfl
@[simp] theorem toUnknown_dutyA0 (d : Regs) : (toUnknown d s).dutyA0 = d.dutyA0 := rfl
@[simp] theorem toUnknown_dutyA1 (d : Regs) : (toUnknown d s).dutyA1 = d.dutyA1 := rfl
@[simp] theorem toUnknown_dutyB0 (d : Regs) : (toUnknown d s).dutyB0 = d.dutyB0 := rfl
@[simp] theorem toUnknown_dutyB1 (d : Regs) : (toUnknown d s).dutyB1 = d.dutyB1 := rfl
@[simp] theorem toUnknown_upd (d : Regs) : (toUnknown d s).upd = d.upd := rfl
@[simp] theorem toUnknown_known (d : Regs) : (toUnknown d s).known = false := rfl
@[simp] theorem toUnknown_rom (d : Regs) : (toUnknown d s).rom = s.rom := rfl
@[simp] theorem toUnknown_pending (d : Regs) : (toUnknown d s).pending = s.pending := rfl
@[simp] theorem toUnknown_cycle (d : Regs) : (toUnknown d s).cycle = s.cycle := rfl
@[simp] theorem toUnknown_readings (d : Regs) : (toUnknown d s).readings = s.readings := rfl

@[simp] theorem toResetState_phase : (toResetState s).phase = 0 := rfl
@[simp] theorem toResetState_scaler : (toResetState s).scaler = 0 := rfl
@[simp] theorem toResetState_dutyA0 : (toResetState s).dutyA0 = 0 := rfl
@[simp] theorem toResetState_dutyA1 : (toResetState s).dutyA1 = 0 := rfl
@[simp] theorem toResetState_dutyB0 : (toResetState s).dutyB0 = 0 := rfl
@[simp] theorem toResetState_dutyB1 : (toResetState s).dutyB1 = 0 := rfl
@[simp] theorem toResetState_upd : (toResetState s).upd = 0 := rfl
@[simp] theorem toResetState_known : (toResetState s).known = true := rfl
@[simp] theorem toResetState_rom : (toResetState s).rom = s.rom := rfl
@[simp] theorem toResetState_pending : (toResetState s).pending = s.pending := rfl
@[simp] theorem toResetState_cycle : (toResetState s).cycle = s.cycle := rfl
@[simp] theorem toResetState_readings : (toResetState s).readings = s.readings := rfl

@[simp] theorem program_phase (d : DutyPair) : (program d s).phase = s.phase := rfl
@[simp] theorem program_scaler (d : DutyPair) : (program d s).scaler = s.scaler := rfl
@[simp] theorem program_dutyA0 (d : DutyPair) : (program d s).dutyA0 = d.pos := rfl
@[simp] theorem program_dutyA1 (d : DutyPair) : (program d s).dutyA1 = d.pos := rfl
@[simp] theorem program_dutyB0 (d : DutyPair) : (program d s).dutyB0 = d.neg := rfl
@[simp] theorem program_dutyB1 (d : DutyPair) : (program d s).dutyB1 = d.neg := rfl
@[simp] theorem program_upd (d : DutyPair) : (program d s).upd = s.upd := rfl
@[simp] theorem program_known (d : DutyPair) : (program d s).known = s.known := rfl
@[simp] theorem program_rom (d : DutyPair) : (program d s).rom = s.rom := rfl
@[simp] theorem program_pending (d : DutyPair) : (program d s).pending = s.pending := rfl
@[simp] theorem program_cycle (d : DutyPair) : (program d s).cycle = s.cycle := rfl
@[simp] theorem program_readings (d : DutyPair) : (program d s).readings = s.readings := rfl

theorem program_eq (d : DutyPair) :
    program d s = { s with dutyA0 := d.pos, dutyA1 := d.pos, dutyB0 := d.neg, dutyB1 := d.neg } := rfl

@[simp] theorem State.reset_phase : State.reset.phase = 0 := rfl
@[simp] theorem State.reset_scaler : State.reset.scaler = 0 := rfl
@[simp] theorem State.reset_dutyA0 : State.reset.dutyA0 = 0 := rfl
@[simp] theorem State.reset_dutyA1 : State.reset.dutyA1 = 0 := rfl
@[simp] theorem State.reset_dutyB0 : State.reset.dutyB0 = 0 := rfl
@[simp] theorem State.reset_dutyB1 : State.reset.dutyB1 = 0 := rfl
@[simp] theorem State.reset_upd : State.reset.upd = 0 := rfl
@[simp] theorem State.reset_known : State.reset.known = true := rfl
@[simp] theorem State.reset_rom : State.reset.rom = Config.sineRom := rfl
@[simp] theorem State.reset_pending : State.reset.pending = [] := rfl
@[simp] theorem State.reset_cycle : State.reset.cycle = 0 := rfl
@[simp] theorem State.reset_readings : State.reset.readings = [] := rfl

@[simp] theorem toResetState_reset : toResetState State.reset = State.reset := rfl

/-- A duty write shows on its own port. -/
@[simp] theorem dutyOut_writeDuty_self (r : DutyReg) (v : U8) : dutyOut r (writeDuty r v s) = v := by
  cases r <;> rfl

/-- A duty write leaves the other duty registers alone. -/
theorem dutyOut_writeDuty_of_ne {r q : DutyReg} (h : q ≠ r) (v : U8) :
    dutyOut q (writeDuty r v s) = dutyOut q s := by
  cases r <;> cases q <;> first | rfl | exact absurd rfl h

@[simp] theorem writeDuty_phase (r : DutyReg) (v : U8) : (writeDuty r v s).phase = s.phase := by cases r <;> rfl
@[simp] theorem writeDuty_scaler (r : DutyReg) (v : U8) : (writeDuty r v s).scaler = s.scaler := by cases r <;> rfl
@[simp] theorem writeDuty_upd (r : DutyReg) (v : U8) : (writeDuty r v s).upd = s.upd := by cases r <;> rfl
@[simp] theorem writeDuty_known (r : DutyReg) (v : U8) : (writeDuty r v s).known = s.known := by cases r <;> rfl
@[simp] theorem writeDuty_rom (r : DutyReg) (v : U8) : (writeDuty r v s).rom = s.rom := by cases r <;> rfl
@[simp] theorem writeDuty_pending (r : DutyReg) (v : U8) : (writeDuty r v s).pending = s.pending := by cases r <;> rfl
@[simp] theorem writeDuty_cycle (r : DutyReg) (v : U8) : (writeDuty r v s).cycle = s.cycle := by cases r <;> rfl
@[simp] theorem writeDuty_readings (r : DutyReg) (v : U8) : (writeDuty r v s).readings = s.readings := by cases r <;> rfl

end

end Sys2Proof.Machine
end

