-- ==== Sys2Proof/Laws/Ops.lean ====
section
/-! SUPPORT. One lemma per shared operation that says everything it can do; proofs cite these instead of unfolding. -/

namespace Sys2Proof.Machine

/-- The fold index, exactly: no band's index wraps (spec/40_sine_lut.md R83). -/
theorem foldIndex_toNat (a : U7) :
    (foldIndex a).toNat =
      if a.toNat ≤ 32 then a.toNat else if a.toNat ≤ 64 then 64 - a.toNat
      else if a.toNat ≤ 96 then a.toNat - 64 else 128 - a.toNat := by
  have := a.isLt
  simp only [foldIndex, bandOf]
  split_ifs <;> simp only [trunc, BitVec.toNat_ofNat] <;> omega

/-- The sign of an angle: at or above the midpoint up to angle 64 (spec/40_sine_lut.md R83). -/
theorem foldPositive_eq (a : U7) : foldPositive a = decide (a.toNat ≤ 64) := by
  simp only [foldPositive, bandOf]
  split_ifs <;> simp <;> omega

/-- The quarter-wave value: the entry where the index is a ROM address, else 127 (spec/40_sine_lut.md R84). -/
theorem quarter_cases (rom : SineRom) (idx : U6) :
    (idx.toNat < 32 ∧ ∃ b q, rom.cells.read idx.toNat = some b ∧ quarter rom idx = .ok q ∧ q.toNat = b.toNat) ∨
      (32 ≤ idx.toNat ∧ quarter rom idx = .ok 127) := by
  rcases romRead_cases rom idx with ⟨hi, b, hr, hb, hle⟩ | ⟨hi, -⟩
  · refine .inl ⟨hi, b, trunc 7 b.toNat, hr, by simp [quarter, hi, hb], ?_⟩
    simp [trunc]
    omega
  · exact .inr ⟨hi, by simp [quarter, Nat.not_lt.mpr hi]⟩

/-- The quarter-wave stage never faults, at any index. -/
theorem quarter_ok (rom : SineRom) (idx : U6) : ∃ q, quarter rom idx = .ok q := by
  rcases quarter_cases rom idx with ⟨-, -, q, -, h, -⟩ | ⟨-, h⟩
  · exact ⟨q, h⟩
  · exact ⟨_, h⟩

/-- A sample about the midpoint, exactly: no value wraps (spec/40_sine_lut.md R84). -/
theorem sampleOf_toNat (positive : Bool) (q : U7) :
    (sampleOf positive q).toNat = if positive then 127 + q.toNat else 127 - q.toNat := by
  have := q.isLt
  cases positive <;> simp [sampleOf, trunc] <;> omega

/-- SINE as its two parts: the quarter-wave value at the fold index, and the sign (spec/40_sine_lut.md R84). -/
theorem sine_cases (rom : SineRom) (a : U7) :
    ∃ q, quarter rom (foldIndex a) = .ok q ∧ sine rom a = .ok (sampleOf (foldPositive a) q) := by
  obtain ⟨q, h⟩ := quarter_ok rom (foldIndex a)
  exact ⟨q, h, by simp [sine, h]⟩

/-- SPLIT: the two levels exactly for a sample of 0..254, DOMAIN for 255 (spec/42_splitter.md R120, R124). -/
theorem split_cases (s : U8) :
    (s.toNat ≤ 254 ∧ ∃ p, split s = .ok p ∧ p.pos.toNat = s.toNat - 127 ∧ p.neg.toNat = 127 - s.toNat) ∨
      (s.toNat = 255 ∧ split s = .error (.domain .split 255)) := by
  have hs := s.isLt
  by_cases h : s.toNat = 255
  · exact .inr ⟨h, by simp [split, h]⟩
  · refine .inl ⟨by omega, _, by simp [split, h]; rfl, ?_, ?_⟩ <;> dsimp only <;> split <;> simp [trunc] <;> omega

/-- SCALE doubles exactly (spec/42_splitter.md R121). -/
theorem scale_toNat (l : U7) : (scale l).toNat = 2 * l.toNat := by
  unfold scale dutyOfLevel
  rw [BitVec.toNat_append, Nat.shiftLeft_eq]
  simp
  omega

/-- DRIVE: both levels doubled for a sample of 0..254, DOMAIN for 255 (spec/42_splitter.md R122, R124). -/
theorem drive_cases (s : U8) :
    (s.toNat ≤ 254 ∧ ∃ d, drive s = .ok d ∧ d.pos.toNat = 2 * (s.toNat - 127) ∧ d.neg.toNat = 2 * (127 - s.toNat)) ∨
      (s.toNat = 255 ∧ drive s = .error (.domain .split 255)) := by
  rcases split_cases s with ⟨h, p, hp, hpos, hneg⟩ | ⟨h, hp⟩
  · exact .inl ⟨h, ⟨scale p.pos, scale p.neg⟩, by simp [drive, hp], by simp [scale_toNat, hpos],
      by simp [scale_toNat, hneg]⟩
  · exact .inr ⟨h, by simp [drive, hp]⟩

/-- ADVANCE: at the last count the phase moves by 1 modulo 128 and the scaler clears, else only the scaler counts
(spec/41_phase_clock.md R100). -/
theorem advance_cases (p : U7) (c : U2) :
    (c = 3 ∧ advance p c = ⟨p + 1, 0, true⟩) ∨
      (c ≠ 3 ∧ advance p c = ⟨p, c + 1, false⟩ ∧ (c + 1).toNat = c.toNat + 1) := by
  by_cases h : c = 3
  · refine .inl ⟨h, ?_⟩
    have : trunc 7 (p.toNat + 1) = p + 1 := by apply BitVec.eq_of_toNat_eq; simp [trunc]
    simp [advance, atLastCount, h, this]
  · have hc : c.toNat ≠ 3 := fun e => h (BitVec.eq_of_toNat_eq (by simpa using e))
    have := c.isLt
    have e : trunc 2 (c.toNat + 1) = c + 1 := by apply BitVec.eq_of_toNat_eq; simp [trunc]
    refine .inr ⟨h, ?_, ?_⟩
    · simp only [advance, atLastCount, h, e, decide_false, Bool.false_eq_true, if_false]
    rw [← e]
    simp [trunc]
    omega

/-- Everything a NOP can do. -/
theorem execNop_cases (s : State) :
    (s.known = true ∧ execNop s = .next { s with upd := 0 }) ∨
      (s.known = false ∧ execNop s = .next (toUnknown (Config.unknownAfterNop s.cycle s.toRegs) s)) := by
  cases h : s.known <;> simp [execNop, h, updOf]

/-- Everything a RESET can do. -/
theorem execReset_eq (t : Bool) (s : State) : execReset t s = .next (toResetState s) := rfl

/-- Everything the host's reading after an edge can do (spec/60_exceptions.md R183). -/
theorem hostRead_cases (read : Bool) (s : State) :
    (read = false ∧ hostRead read s = .next s) ∨
      (read = true ∧ s.known = true ∧ hostRead read s = .next { s with readings := s.readings ++ [outputs s] }) ∨
      (read = true ∧ s.known = false ∧ hostRead read s = .fault (.unresetRead s.cycle)) := by
  cases read <;> cases h : s.known <;> simp [hostRead, readOutputs, h]

/-- The check of a memory built from bytes is the check of the bytes (spec/40_sine_lut.md R81). -/
theorem romDefect_ofBytes (T : List U8) : romDefect (Memory.ofBytes 0 T) = tableDefect T := by
  unfold romDefect
  rw [if_neg (by simp [List.range_eq_range']), Memory.bytes_ofBytes]

/-- Everything a configuration can do: a ROM of exactly these bytes, or BAD_TABLE with their defect
(spec/60_exceptions.md R184). -/
theorem loadTable_cases (T : List U8) :
    (tableDefect T = none ∧ ∃ rom, loadTable T = .next rom ∧ rom.cells.bytes = T) ∨
      ∃ d, tableDefect T = some d ∧ loadTable T = .refused (.badTable d) := by
  have e := romDefect_ofBytes T
  unfold loadTable
  split
  · rename_i h
    exact .inl ⟨e ▸ h, _, rfl, Memory.bytes_ofBytes T 0⟩
  · rename_i d h
    exact .inr ⟨d, e ▸ h, rfl⟩

@[simp] theorem stopReason_next {σ : Type} (s : σ) : stopReason (.next s) = none := rfl
@[simp] theorem stopReason_fault {σ : Type} (f : Fault) :
    stopReason (σ := σ) (.fault f) = some (faultReason f) := rfl
@[simp] theorem stopReason_badTable {σ : Type} (d : TableDefect) :
    stopReason (σ := σ) (.refused (.badTable d)) = some (.badTable d) := rfl

/-- A step that answers a next state applied its operation and then let the host read. -/
theorem step_next {s s' : State} (h : step s = .next s') :
    ∃ t, exec (decode (nextCycle s).ctrl) (takeCycle s) = .next t ∧ hostRead (nextCycle s).read t = .next s' := by
  unfold step at h
  split at h
  · exact ⟨_, ‹_›, h⟩
  · cases h
  · cases h

/-- A step whose operation answers a next state is the host's reading of that state. -/
theorem step_of_exec {s t : State} (h : exec (decode (nextCycle s).ctrl) (takeCycle s) = .next t) :
    step s = hostRead (nextCycle s).read t := by
  unfold step
  rw [h]

end Sys2Proof.Machine
end

