-- ==== Sys2Proof/Laws/PerInstr.lean ====
section
/-! SUPPORT. Statements for all operations, one lemma per constructor: the encoding of an operation fits its own row
of spec/opcode_table.json and no other row. -/

namespace Sys2Proof.Laws

/-- The operation's control vector matches its own row of the opcode table and no other. -/
def OwnRow.Statement (i : Instr) : Prop :=
  ∀ r ∈ opcodeTable, r.matches (encode i) = true ↔ r = i.row

/-- NOP matches the NOP row only. -/
theorem OwnRow.nop : OwnRow.Statement .nop := by
  simp [OwnRow.Statement, opcodeTable, OpcodeRow.matches, encode, Instr.row]

/-- TICK matches the TICK row only. -/
theorem OwnRow.tick : OwnRow.Statement .tick := by
  simp [OwnRow.Statement, opcodeTable, OpcodeRow.matches, encode, Instr.row]

/-- RESET, with or without a tick offered, matches the RESET row only. -/
theorem OwnRow.reset (t : Bool) : OwnRow.Statement (.reset t) := by
  cases t <;> simp [OwnRow.Statement, opcodeTable, OpcodeRow.matches, encode, Instr.row]

end Sys2Proof.Laws
end

