-- ==== Sys2Proof/Laws/Run.lean ====
section
/-! SUPPORT. Runs of clock cycles: their one unfolding, their composition, and the step of a listed cycle. -/

namespace Sys2Proof.Machine

@[simp] theorem runFor_zero (s : State) : runFor 0 s = .next s := rfl

/-- A run goes on after a next state. -/
theorem runFor_succ_next {s t : State} (h : step s = .next t) (k : Nat) : runFor (k + 1) s = runFor k t := by
  rw [runFor, h]

/-- A run ends at a fault. -/
theorem runFor_succ_fault {s : State} {f : Fault} (h : step s = .fault f) (k : Nat) :
    runFor (k + 1) s = .fault f := by
  rw [runFor, h]

/-- A run goes on from the state an earlier run ends in. -/
theorem runFor_add {n : Nat} : ∀ {s t : State}, runFor n s = .next t → ∀ k, runFor (n + k) s = runFor k t := by
  induction n with
  | zero =>
    intro s t h k
    cases h
    rw [Nat.zero_add]
  | succ n ih =>
    intro s t h k
    rw [runFor] at h
    cases hs : step s with
    | next x =>
      rw [hs] at h
      rw [show n + 1 + k = (n + k) + 1 by omega, runFor_succ_next hs]
      exact ih h k
    | fault f => rw [hs] at h; cases h
    | refused r => rw [hs] at h; cases h

/-- The step of a listed cycle: its operation on the state whose cycle is taken, then the host's reading. -/
theorem step_withScript (c : HostCycle) (cs : List HostCycle) (s : State) :
    step (withScript (c :: cs) s) =
      match exec (decode c.ctrl) { s with pending := cs, cycle := s.cycle + 1 } with
      | .next t => hostRead c.read t
      | .fault f => .fault f
      | .refused r => .refused r := rfl

/-- A state drives its own list of cycles. -/
theorem withScript_own (s : State) : withScript s.pending s = s := rfl

/-- A run of the host's interface is a run of the machine. -/
theorem runFor_eq_core_run (k : Nat) : ∀ s : State, runFor k s = Host.Core.run Sys2Proof.core k s := by
  induction k with
  | zero => intro s; rfl
  | succ k ih =>
    intro s
    have hc : Host.Core.run Sys2Proof.core (k + 1) s =
        match step s with
        | .next t => Host.Core.run Sys2Proof.core k t
        | .fault f => .fault f
        | .refused r => .refused r := by
      show Host.Core.run Sys2Proof.core (k + 1) s = _
      have general : ∀ (M : Host.Core) (n : Nat) (x : M.State) (o : Host.Outcome M.State M.Fault M.Refusal),
          M.step x = o → M.run (n + 1) x =
            match o with
            | .next t => M.run n t
            | .fault f => .fault f
            | .refused r => .refused r := by
        intro M n x o h
        subst h
        rfl
      cases h : step s with
      | next t => exact general Sys2Proof.core k s (.next t) h
      | fault f => exact general Sys2Proof.core k s (.fault f) h
      | refused r => exact general Sys2Proof.core k s (.refused r) h
    rw [hc, runFor]
    cases step s with
    | next t => exact ih t
    | fault f => rfl
    | refused r => rfl

end Sys2Proof.Machine
end

