-- ==== Sys2Proof/Tests/Slice0.lean ====
section
/-! SUPPORT. Tests: the words of spec/30_encoding.md R61 written out, the refusals of each well-formedness check, vectors
of spec/95_test_vectors.md (whose numbers they are), and a witness for the hypotheses of every conditional statement.
`REF_TABLE` (spec/40_sine_lut.md R82) stands here only. -/

namespace Sys2Proof.Tests

open Sys2Proof.Machine

/-- REF_TABLE, spec/40_sine_lut.md R82, a fixture for tests only. -/
def refBytes : List U8 :=
  [0, 6, 12, 19, 25, 31, 37, 43, 49, 54, 60, 65, 71, 76, 81, 85] ++
  [90, 94, 98, 102, 106, 109, 112, 115, 117, 120, 122, 123, 125, 126, 126, 127]

theorem ref_ok : romDefect (Memory.ofBytes 0 refBytes) = none := by decide

/-- The ROM of REF_TABLE. -/
def refRom : SineRom := { cells := Memory.ofBytes 0 refBytes, ok := ref_ok }

/-- A known state `(phase, scaler, a/a/b/b, upd)` in the notation of spec/95_test_vectors.md, with REF_TABLE. -/
def st (phase : U7) (scaler : U2) (a b : U8) (upd : U1) : State :=
  { phase := phase, scaler := scaler, dutyA0 := a, dutyA1 := a, dutyB0 := b, dutyB1 := b, upd := upd, known := true,
    rom := refRom, pending := [], cycle := 0, readings := [] }

/-- An unknown state, with arbitrary register contents. -/
def unk : State := { st 77 2 1 2 1 with known := false }

/-- What spec/95_test_vectors.md writes of a state: `(phase, scaler, a0, a1, b0, b1, upd)`. -/
def view (s : State) : List Nat :=
  [s.phase.toNat, s.scaler.toNat, s.dutyA0.toNat, s.dutyA1.toNat, s.dutyB0.toNat, s.dutyB1.toNat, s.upd.toNat]

/-- The view of a next state, nothing otherwise. -/
def viewNext : Host.Outcome State Fault Refusal → List Nat
  | .next s => view s
  | _ => []

/-- The `known` field of a next state. -/
def knownNext : Host.Outcome State Fault Refusal → Option Bool
  | .next s => some s.known
  | _ => none

/-- The fault an outcome stops with. -/
def faultOf {σ : Type} : Host.Outcome σ Fault Refusal → Option Fault
  | .fault f => some f
  | _ => none

/-- The defect a configuration is refused with. -/
def defectOf {σ : Type} : Host.Outcome σ Fault Refusal → Option TableDefect
  | .refused (.badTable d) => some d
  | _ => none

/-- The value of a stage that did not fault. -/
def valueOf {α : Type} : Except Fault α → Option α
  | .ok v => some v
  | .error _ => none

/-! ### Encoding: the four vectors of 30_encoding.md R61 -/

theorem test_decode_nop : decodeTableWord 8 0b00 = some .nop := by decide
theorem test_decode_tick : decodeTableWord 8 0b01 = some .tick := by decide
theorem test_decode_reset : decodeTableWord 8 0b10 = some (.reset false) := by decide
theorem test_decode_resetT : decodeTableWord 8 0b11 = some (.reset true) := by decide
theorem test_ctrl_is_rst_then_tick : ctrl 1 0 = 0b10#2 ∧ ctrl 0 1 = 0b01#2 := by decide
theorem test_encode_nop : encode .nop = ctrl 0 0 := by decide
theorem test_encode_tick : encode .tick = ctrl 0 1 := by decide
theorem test_encode_reset : encode (.reset false) = ctrl 1 0 ∧ encode (.reset true) = ctrl 1 1 := by decide

/-! ### Well-formedness: one ill-formed term for each check -/

theorem test_wide_word_refused : ctrlWordFits 4 = false ∧ decodeTableWord 8 4 = none := by decide
theorem test_count_zero_refused : (InputLine.mk .tick 0).wellFormed = false := by decide
theorem test_all_operations_wellFormed : ∀ v : U2, (decode v).wellFormed = true := by decide

/-! ### V-CFG of 95_test_vectors.md 2.6 -/

theorem test_cfg_ref : tableDefect refBytes = none := by decide
theorem test_cfg_zero : tableDefect (List.replicate 32 0) = none := by decide
theorem test_cfg_square : tableDefect (0 :: List.replicate 31 127) = none := by decide
theorem test_cfg_item3 : tableDefect (refBytes.set 0 1) = some ⟨.zeroStart, some 0⟩ := by decide
theorem test_cfg_item4 : tableDefect (refBytes.set 20 100) = some ⟨.nonDecreasing, some 20⟩ := by decide
theorem test_cfg_item2 : tableDefect (refBytes.set 31 128) = some ⟨.range, some 31⟩ := by decide
theorem test_cfg_short : tableDefect (refBytes.take 31) = some ⟨.length, none⟩ := by decide
theorem test_cfg_long : tableDefect (refBytes ++ [127]) = some ⟨.length, none⟩ := by decide
theorem test_cfg_refused : defectOf (powerOn 0 (refBytes.set 20 100)) = some ⟨.nonDecreasing, some 20⟩ := by decide

/-! ### V-STEP of 95_test_vectors.md 2.5 -/

theorem test_vstep_1 : viewNext (exec .nop (st 5 0 62 0 1)) = [5, 0, 62, 62, 0, 0, 0] := by decide
theorem test_vstep_2 : viewNext (exec .tick (st 5 0 62 0 0)) = [5, 1, 62, 62, 0, 0, 0] := by decide
theorem test_vstep_3 : viewNext (exec .tick (st 9 3 108 0 0)) = [10, 0, 120, 120, 0, 0, 1] := by decide
theorem test_vstep_4 : viewNext (exec .tick (st 31 3 254 0 0)) = [32, 0, 254, 254, 0, 0, 1] := by decide
theorem test_vstep_5 : viewNext (exec .tick (st 64 3 0 0 0)) = [65, 0, 0, 0, 12, 12, 1] := by decide
theorem test_vstep_6 : viewNext (exec .tick (st 95 3 0 254 0)) = [96, 0, 0, 0, 254, 254, 1] := by decide
theorem test_vstep_7 : viewNext (exec .tick (st 127 3 0 12 0)) = [0, 0, 0, 0, 0, 0, 1] := by decide
theorem test_vstep_8 : viewNext (exec (decode 0b10#2) (st 77 2 0 152 0)) = [0, 0, 0, 0, 0, 0, 0] := by decide
theorem test_vstep_9 : viewNext (exec (decode 0b11#2) (st 77 3 0 152 0)) = [0, 0, 0, 0, 0, 0, 0] := by decide
theorem test_vstep_10 : knownNext (exec .tick unk) = some false := by decide
theorem test_vstep_11 : viewNext (exec (.reset false) unk) = [0, 0, 0, 0, 0, 0, 0] ∧
    knownNext (exec (.reset false) unk) = some true := by decide
theorem test_vstep_12 : faultOf (readOutputs unk) = some (.unresetRead 0) := by decide

/-! ### V-SINE, V-ADV and V-SPLIT of 95_test_vectors.md -/

theorem test_sine_10 : valueOf (sine refRom 10) = some 187 := by decide
theorem test_sine_corners : valueOf (sine refRom 0) = some 127 ∧ valueOf (sine refRom 32) = some 254 ∧
    valueOf (sine refRom 64) = some 127 ∧ valueOf (sine refRom 96) = some 0 := by decide
theorem test_sine_bands : valueOf (sine refRom 33) = some 254 ∧ valueOf (sine refRom 63) = some 133 ∧
    valueOf (sine refRom 65) = some 121 ∧ valueOf (sine refRom 127) = some 121 := by decide
theorem test_sine_domain : faultOf (σ := U8) (match sineAt refRom 128 with
    | .ok v => .next v
    | .error f => .fault f) = some (.domain .sine 128) := by decide
theorem test_adv_wrap : advance 127 3 = ⟨0, 0, true⟩ := by decide
theorem test_adv_count : advance 127 2 = ⟨127, 3, false⟩ := by decide
theorem test_split_187 : valueOf (split 187) = some ⟨60, 0⟩ := by decide
theorem test_split_60 : valueOf (split 60) = some ⟨0, 67⟩ := by decide
theorem test_split_255 : valueOf (split 255) = none := by decide
theorem test_drive_254 : valueOf (drive 254) = some ⟨254, 0⟩ := by decide
theorem test_scale : scale 63 = 126 ∧ scale 64 = 128 ∧ scale 127 = 254 := by decide
theorem test_program : view (program ⟨120, 0⟩ (st 1 2 3 4 0)) = [1, 2, 120, 120, 0, 0, 0] := by decide

/-! ### The notation of 30_encoding.md R72, and one step through the host's side -/

/-- The lines ` TICK *2 # 01 01` and `RESET.T`. -/
theorem test_notation :
    readInput ([' ', 'T', 'I', 'C', 'K', ' ', '*', '2', ' ', '#', ' ', '0', '1', '\n'] ++
      ['R', 'E', 'S', 'E', 'T', '.', 'T']) = .ok [0b01#2, 0b01#2, 0b11#2] := by decide
/-- The lines NOP, TICK, RESET and RESET.T of 30_encoding.md R72, in this order. -/
theorem test_notation_four_mnemonics :
    readInput (['N', 'O', 'P', '\n', 'T', 'I', 'C', 'K', '\n', 'R', 'E', 'S', 'E', 'T', '\n'] ++
      ['R', 'E', 'S', 'E', 'T', '.', 'T']) = .ok [0b00#2, 0b01#2, 0b10#2, 0b11#2] := by decide
theorem test_notation_count_zero :
    readInput ['N', 'O', 'P', ' ', '*', '0'] = .error (.badCount ['*', '0']) := by decide
theorem test_read_before_reset_faults :
    faultOf (step (withScript [⟨0b01#2, true⟩] unk)) = some (.unresetRead 1) := by decide
theorem test_reset_then_read :
    viewNext (step (withScript [⟨0b10#2, true⟩] unk)) = [0, 0, 0, 0, 0, 0, 0] := by decide
theorem test_placed_tick_runs : viewNext (step (State.reset.withFetchWord 8 1)) = [0, 1, 0, 0, 0, 0, 0] := by decide

/-! ### Witnesses: a state and operands that meet all hypotheses of each conditional statement -/

theorem witness_TableWordsDecode : 4 ≤ 4 ∧ 4 < 256 ∧ 4 ≤ 255 ∧ 255 < 256 := by decide
theorem witness_InputTextReadsBack : '#' ∉ ['N', 'O', 'P', ' '] ∧
    ∀ l ∈ [InputLine.mk .tick 1, InputLine.mk .cycle 12], l.wellFormed = true := by decide
/-- The hypothesis `s.known = true`, alone, of NopClearsTheStrobeOnly, TickCountsOrAdvances, PseudoOperationsAdvance,
WritersOfEachRegister, DutiesChangeTogether and WithoutTicksTheBlockIsFrozen. -/
theorem witness_known : (st 5 0 62 0 1).known = true := by decide
theorem witness_TickCountsOrAdvances : (st 5 2 62 0 0).known = true ∧ (st 5 2 62 0 0).scaler ≠ 3 ∧
    (st 127 3 0 12 0).known = true ∧ (st 127 3 0 12 0).scaler = 3 := by decide
theorem witness_StepRunsTheDecodedOperation :
    (withScript [⟨0b01#2, false⟩] unk).pending = ⟨0b01#2, false⟩ :: [] ∧
    (withScript [⟨0b10#2, true⟩] unk).pending = ⟨0b10#2, true⟩ :: [] ∧
    exec (decode 0b10#2) { withScript [⟨0b10#2, true⟩] unk with pending := [], cycle := 1 } =
      .next (toResetState { unk with cycle := 1 }) ∧
    unk.pending = [] := ⟨rfl, rfl, rfl, rfl⟩
theorem witness_PlacedWordRunsNext : decodeTableWord 8 1 = some .tick := by decide
theorem witness_StepSelects : (1 : U1) = 1 ∧ ((0 : U1) = 0 ∧ unk.known = false) ∧
    ((0 : U1) = 0 ∧ (st 5 0 62 0 1).known = true ∧ (0 : U1) = 0) ∧
    ((0 : U1) = 0 ∧ (st 5 3 62 0 0).known = true ∧ (1 : U1) = 1) := by decide
theorem witness_TickOfferedWithResetIsDiscarded : 0 ≤ 4 ∧ 4 ≤ 4 := by decide
theorem witness_HeldResetKeepsResetState : [0b10#2, 0b11#2] ≠ [] ∧ (∀ v ∈ [0b10#2, 0b11#2], resets v = true) ∧
    resets 0b01#2 = false := by decide
theorem witness_OnlyResetLeavesTheUnknownState : unk.known = false ∧
    exec (.reset true) unk = .next (toResetState unk) ∧ unk.known = false ∧ noReset [0b00#2, 0b01#2] := by
  refine ⟨by decide, rfl, by decide, ?_⟩
  unfold noReset
  decide
theorem witness_OperationsKeepRomAndHostSide :
    exec .nop (st 5 0 62 0 1) = .next (st 5 0 62 0 0) := rfl
theorem witness_RomIsConstantOverRuns :
    runFor 1 (withScript [⟨0b10#2, false⟩] unk) = .next (toResetState { unk with cycle := 1 }) := rfl
theorem witness_StepKeepsConsistency : Inv unk ∧
    step (withScript [⟨0b10#2, false⟩] unk) = .next (toResetState { unk with cycle := 1 }) :=
  ⟨(fun h => absurd h (by decide)), rfl⟩
/-- The state after the advance into angle 5 is consistent, so the invariant's premise is met by a known state too. -/
theorem witness_Consistent : Consistent (st 5 0 62 0 1) :=
  ⟨⟨rfl, rfl⟩, rfl, .inr rfl, by unfold dutyLegal; decide, by decide⟩
theorem witness_StepKeepsConsistency_known : Inv (withScript [⟨0b00#2, false⟩] (st 5 0 62 0 1)) ∧
    step (withScript [⟨0b00#2, false⟩] (st 5 0 62 0 1)) = .next { st 5 0 62 0 0 with cycle := 1 } :=
  ⟨fun _ => ⟨⟨rfl, rfl⟩, rfl, .inr rfl, by unfold dutyLegal; decide, by decide⟩, rfl⟩
theorem witness_ResetStateIsConsistent : exec (.reset false) unk = .next (toResetState unk) := rfl
theorem witness_noReset : noReset [0b00#2, 0b01#2] := by unfold noReset; decide
theorem witness_ScalerIsTicksSinceStrobe : (st 5 0 62 0 1).known = true ∧ Consistent (st 5 0 62 0 1) ∧
    (st 5 0 62 0 1).upd = 1 ∧ noReset [0b01#2, 0b00#2, 0b01#2, 0b01#2] ∧
    tickCount [0b01#2, 0b00#2, 0b01#2, 0b01#2] ≤ 3 :=
  ⟨rfl, witness_Consistent, rfl, by unfold noReset; decide, by decide⟩
theorem witness_RawTicksAreCounted : (st 5 1 62 0 0).known = true ∧ noReset [0b01#2, 0b00#2, 0b01#2, 0b01#2] ∧
    (st 5 0 62 0 0).scaler = 0 ∧ tickCount [0b01#2, 0b00#2, 0b01#2, 0b01#2] = 3 := by
  refine ⟨by decide, ?_, by decide, by decide⟩
  unfold noReset
  decide
/-- A script of 512 raw ticks with NOPs between them exists. -/
theorem witness_FullCycle : (st 5 1 62 0 0).known = true ∧ noReset (0b00#2 :: List.replicate 512 0b01#2) ∧
    tickCount (0b00#2 :: List.replicate 512 0b01#2) = 512 := by
  refine ⟨rfl, ?_, ?_⟩
  · intro v hv
    rcases List.mem_cons.mp hv with rfl | hv
    · decide
    · rw [List.eq_of_mem_replicate hv]; decide
  · rw [tickCount, List.countP_cons, List.countP_replicate]
    rfl
theorem witness_FirstAdvanceAfterReset : noReset [0b01#2, 0b01#2, 0b00#2, 0b01#2] ∧
    tickCount [0b01#2, 0b01#2, 0b00#2, 0b01#2] ≤ 3 ∧ tickCount [0b01#2, 0b01#2, 0b00#2, 0b01#2] = 3 := by
  refine ⟨?_, by decide, by decide⟩
  unfold noReset
  decide
theorem witness_OutputsForgetEverythingBeforeReset : (st 5 1 62 0 0).rom = unk.rom := rfl
theorem witness_StrobeMarksAdvances : (st 5 3 62 0 0).known = true ∧ unk.known = false ∧ (0 : U1) = 0 := by decide
theorem witness_Reading : (st 5 1 62 0 0).known = true ∧ unk.known = false := by decide
theorem witness_DomainFaults : 128 ≤ 128 ∧ (0 : U8) ≠ 255 ∧ (254 : U8) ≠ 255 ∧ 32 ≤ (32 : U6).toNat ∧ 32 ≤ (63 : U6).toNat ∧
    (0 : U6).toNat < 32 ∧ (31 : U6).toNat < 32 := by decide
theorem witness_UnresetReadIsNeverCleared : unk.known = false ∧ noReset [0b01#2] ∧ resets 0b00#2 = false ∧
    [0b01#2].length < 2 := by
  refine ⟨by decide, ?_, by decide, by decide⟩
  unfold noReset
  decide
theorem test_failure_codes : [reasonCode (.domain .split 255), reasonCode (.unresetRead 2),
    reasonCode (.badTable ⟨.length, none⟩)] = [1, 2, 3] := by decide
theorem witness_FailuresAreTheThreeReasons :
    runFor 1 (withScript [⟨0b01#2, true⟩, ⟨0b10#2, true⟩] unk) = .fault (.unresetRead 1) := rfl
theorem witness_RunsReadAfterResetNeverStop :
    readsAfterReset (withScript [⟨0b01#2, false⟩, ⟨0b10#2, true⟩, ⟨0b01#2, true⟩] unk).known
      (withScript [⟨0b01#2, false⟩, ⟨0b10#2, true⟩, ⟨0b01#2, true⟩] unk).pending = true := by decide
theorem witness_PowerOnIsUnknown : noReset [] ∧
    runVectors false [] (powerOnState 0 refRom) = .next (powerOnState 0 refRom) :=
  ⟨(by unfold noReset; decide), rfl⟩
theorem witness_BadTable_length : loadTable [] = .refused (.badTable ⟨.length, none⟩) := rfl
theorem witness_BadTable_range :
    loadTable (refBytes.set 31 128) = .refused (.badTable ⟨.range, some 31⟩) := rfl
theorem witness_BadTable_zeroStart :
    loadTable (refBytes.set 0 1) = .refused (.badTable ⟨.zeroStart, some 0⟩) := rfl
theorem witness_BadTable_nonDecreasing :
    loadTable (refBytes.set 20 100) = .refused (.badTable ⟨.nonDecreasing, some 20⟩) := rfl
theorem witness_AdvanceFollowsItsRule : (3 : U2).toNat = 3 ∧ (2 : U2).toNat ≠ 3 := by decide
theorem witness_FoldIndexRanges : bandOf 33 = .q2 ∧ bandOf 64 = .q2 ∧ bandOf 65 = .q3 ∧ bandOf 96 = .q3 ∧
    bandOf 97 = .q4 ∧ bandOf 127 = .q4 := by decide
theorem witness_SineIsMonotoneByQuarters : (0 : U7).toNat ≤ (32 : U7).toNat ∧ 32 ≤ (32 : U7).toNat ∧
    (32 : U7).toNat ≤ (96 : U7).toNat ∧ (96 : U7).toNat ≤ 96 ∧ 96 ≤ (96 : U7).toNat ∧
    (96 : U7).toNat ≤ (127 : U7).toNat := by decide
/-- SINE equals 127 away from 0 and 64 with the table whose entry 1 is 0, as 40_sine_lut.md R85 allows. -/
theorem witness_SineStaysInRange : (0 : U7).toNat ≤ 64 ∧ 64 ≤ (127 : U7).toNat ∧ (64 : U7).toNat = 64 ∧
    valueOf (sine {} 1) = some 127 ∧ (1 : U7).toNat ≠ 0 ∧ (1 : U7).toNat ≠ 64 := by decide
theorem witness_QuarterSymmetry : 0 ≤ 64 ∧ 64 ≤ 64 ∧ 1 ≤ 1 ∧ 1 ≤ 63 ∧ 63 ≤ 63 := by decide
theorem witness_SplitLaws : (0 : U8).toNat ≤ 254 ∧ (254 : U8).toNat ≤ 254 ∧ (127 : U8) = 127 ∧ (126 : U8) ≠ 127 := by decide
theorem witness_DutyLaws : 64 ≤ (64 : U7).toNat ∧ 64 ≤ (127 : U7).toNat ∧ (0 : U7).toNat ≤ 64 ∧ (64 : U7).toNat ≤ 64 := by
  decide

end Sys2Proof.Tests
end

section
/-! PROOFS. The registers of spec/10_state.md: what one rising edge does, what it leaves, the invariant of R30, and runs of
control vectors. -/

namespace Sys2Proof.Machine

/-! ### DUTY -/

/-- SINE answers a sample that SPLIT accepts (40_sine_lut.md R85). -/
theorem sine_le_254 (rom : SineRom) (a : U7) : ∃ v, sine rom a = .ok v ∧ v.toNat ≤ 254 := by
  obtain ⟨q, -, hv⟩ := sine_cases rom a
  refine ⟨_, hv, ?_⟩
  have := q.isLt
  rw [sampleOf_toNat]
  split <;> omega

/-- DUTY of an angle is answered, and holds twice the distance of its sample from the midpoint, on the side where the
sample lies (44_tick_step.md R164). -/
theorem dutyOf_eq_ok (rom : SineRom) (a : U7) :
    ∃ v d, sine rom a = .ok v ∧ dutyOf rom a = .ok d ∧ v.toNat ≤ 254 ∧
      d.pos.toNat = 2 * (v.toNat - 127) ∧ d.neg.toNat = 2 * (127 - v.toNat) := by
  obtain ⟨v, hv, hle⟩ := sine_le_254 rom a
  rcases drive_cases v with ⟨-, d, hd, hpos, hneg⟩ | ⟨h255, -⟩
  · exact ⟨v, d, hv, by simp [dutyOf, hv, hd], hle, hpos, hneg⟩
  · omega

/-- The clauses of 10_state.md R30 that hold of every value of DUTY (44_tick_step.md R165). -/
theorem dutyOf_laws {rom : SineRom} {a : U7} {d : DutyPair} (h : dutyOf rom a = .ok d) :
    (d.pos = 0 ∨ d.neg = 0) ∧ dutyLegal d.pos ∧ dutyLegal d.neg := by
  obtain ⟨v, d', -, hd, hle, hpos, hneg⟩ := dutyOf_eq_ok rom a
  obtain rfl : d' = d := by simpa [hd] using h
  refine ⟨?_, ⟨by omega, by omega⟩, ⟨by omega, by omega⟩⟩
  rcases Nat.le_total v.toNat 127 with hv | hv
  · exact .inl (BitVec.eq_of_toNat_eq (by simp [hpos]; omega))
  · exact .inr (BitVec.eq_of_toNat_eq (by simp [hneg]; omega))

/-- Entry 0 of every well-formed table is 0 (40_sine_lut.md R81, item 3). -/
theorem rom_read_zero (rom : SineRom) : rom.cells.read 0 = some 0 := by
  obtain ⟨-, -, hzero, -⟩ := tableDefect_none (rom_table_ok rom)
  rw [rom_read_eq, ← List.head?_eq_getElem?, hzero]

/-- SINE at angle 0 is the midpoint (40_sine_lut.md R86). -/
theorem sine_zero (rom : SineRom) : sine rom 0 = .ok 127 := by
  have hr : romRead rom (foldIndex 0) = .ok 0 := by
    rw [romRead, show (foldIndex 0).toNat = 0 by decide, rom_read_zero]
  have hq : quarter rom (foldIndex 0) = .ok 0 := by
    rw [quarter, if_pos (by decide), hr]
    rfl
  rw [sine, hq]
  rfl

/-- The duties of RESET_STATE are DUTY of its angle (70_reset_and_hazards.md R200). -/
theorem dutyOf_zero (rom : SineRom) : dutyOf rom 0 = .ok ⟨0, 0⟩ := by
  rw [dutyOf, sine_zero]
  rfl

/-! ### One rising edge -/

/-- What the operation `i` does to the state at a rising edge: the selection of 44_tick_step.md R160 with the next state of
each case. `exec_next_iff` says that it is `exec`. -/
inductive Edge : Instr → State → State → Prop
  | reset (b : Bool) (s : State) : Edge (.reset b) s (toResetState s)
  | unknownNop {s : State} (hk : s.known = false) :
      Edge .nop s (toUnknown (Config.unknownAfterNop s.cycle s.toRegs) s)
  | unknownTick {s : State} (hk : s.known = false) :
      Edge .tick s (toUnknown (Config.unknownAfterTick s.cycle s.toRegs) s)
  | nop {s : State} (hk : s.known = true) : Edge .nop s { s with upd := 0 }
  | count {s : State} (hk : s.known = true) (hc : s.scaler ≠ 3) :
      Edge .tick s { s with scaler := s.scaler + 1, upd := 0 }
  | advance {s : State} {d : DutyPair} (hk : s.known = true) (hc : s.scaler = 3)
      (hd : dutyOf s.rom (s.phase + 1) = .ok d) :
      Edge .tick s (program d { s with phase := s.phase + 1, scaler := 0, upd := 1 })

/-- A TICK from a known state that is not at its last count only counts (44_tick_step.md R162). -/
theorem execTick_count {s : State} (hk : s.known = true) (hc : s.scaler ≠ 3) :
    execTick s = .next { s with scaler := s.scaler + 1, upd := 0 } := by
  rcases advance_cases s.phase s.scaler with ⟨h3, -⟩ | ⟨-, ha, -⟩
  · exact absurd h3 hc
  · simp [execTick, tickKnown, hk, ha, updOf]

/-- A TICK from a known state at its last count programs the duties of the NEW angle (44_tick_step.md R162). -/
theorem execTick_advance {s : State} {d : DutyPair} (hk : s.known = true) (hc : s.scaler = 3)
    (hd : dutyOf s.rom (s.phase + 1) = .ok d) :
    execTick s = .next (program d { s with phase := s.phase + 1, scaler := 0, upd := 1 }) := by
  rcases advance_cases s.phase s.scaler with ⟨-, ha⟩ | ⟨hne, -⟩
  · simp only [execTick, tickKnown, hk, ha, hd, updOf, if_true]
  · exact absurd hc hne

/-- A TICK from an unknown state draws new unknown registers (44_tick_step.md R167). -/
theorem execTick_unknown {s : State} (hk : s.known = false) :
    execTick s = .next (toUnknown (Config.unknownAfterTick s.cycle s.toRegs) s) := by
  simp [execTick, hk]

/-- An edge is what the operation answers. -/
theorem Edge.exec_eq {i : Instr} {s t : State} (h : Edge i s t) : exec i s = .next t := by
  cases h with
  | reset b s => rfl
  | unknownNop hk =>
    rcases execNop_cases s with ⟨hk', -⟩ | ⟨-, he⟩
    · simp [hk] at hk'
    · exact he
  | unknownTick hk => exact execTick_unknown hk
  | nop hk =>
    rcases execNop_cases s with ⟨-, he⟩ | ⟨hk', -⟩
    · exact he
    · simp [hk] at hk'
  | count hk hc => exact execTick_count hk hc
  | advance hk hc hd => exact execTick_advance hk hc hd

/-- Every operation has an edge from every state: no operation faults or is refused (44_tick_step.md R160). -/
theorem edge_total (i : Instr) (s : State) : ∃ t, Edge i s t := by
  cases i with
  | reset b => exact ⟨_, .reset b s⟩
  | nop =>
    cases hk : s.known with
    | false => exact ⟨_, .unknownNop hk⟩
    | true => exact ⟨_, .nop hk⟩
  | tick =>
    cases hk : s.known with
    | false => exact ⟨_, .unknownTick hk⟩
    | true =>
      by_cases hc : s.scaler = 3
      · obtain ⟨-, d, -, hd, -⟩ := dutyOf_eq_ok s.rom (s.phase + 1)
        exact ⟨_, .advance hk hc hd⟩
      · exact ⟨_, .count hk hc⟩

/-- Everything an operation can do. -/
theorem exec_next_iff {i : Instr} {s t : State} : exec i s = .next t ↔ Edge i s t := by
  refine ⟨fun h => ?_, Edge.exec_eq⟩
  obtain ⟨u, hu⟩ := edge_total i s
  obtain rfl : u = t := by simpa [hu.exec_eq] using h
  exact hu

section
variable {i : Instr} {s t : State}

/-- No operation writes the configuration or the host's side. -/
theorem Edge.frame (h : Edge i s t) :
    t.rom = s.rom ∧ t.pending = s.pending ∧ t.cycle = s.cycle ∧ t.readings = s.readings := by
  cases h <;> exact ⟨rfl, rfl, rfl, rfl⟩

/-- A state is known after an edge exactly when it was known before or the operation is RESET (44_tick_step.md R167). -/
theorem Edge.known_iff (h : Edge i s t) : t.known = true ↔ s.known = true ∨ ∃ b, i = .reset b := by
  cases h with
  | reset b s => simp
  | unknownNop hk => simp [hk]
  | unknownTick hk => simp [hk]
  | nop hk => simp [hk]
  | count hk hc => simp [hk]
  | advance hk hc hd => simp [hk]

/-- Every operation keeps a known state known. -/
theorem Edge.known (h : Edge i s t) (hk : s.known = true) : t.known = true := h.known_iff.mpr (.inl hk)

/-- Only RESET leaves an unknown state. -/
theorem Edge.unknown (h : Edge i s t) (hk : s.known = false) (hr : ∀ b, i ≠ .reset b) : t.known = false := by
  simpa [hk, hr] using h.known_iff.not

/-- The strobe after an edge: 1 exactly when the edge advances (10_state.md R26). -/
theorem Edge.upd_eq (h : Edge i s t) (hk : s.known = true) :
    t.upd = updOf (decide (i = .tick) && atLastCount s.scaler) := by
  cases h with
  | reset b s => simp [updOf]
  | unknownNop hu => simp [hk] at hu
  | unknownTick hu => simp [hk] at hu
  | nop hk => simp [updOf]
  | count hk hc =>
    have hl : atLastCount s.scaler = false := decide_eq_false hc
    simp [updOf, hl]
  | advance hk hc hd =>
    have hl : atLastCount s.scaler = true := decide_eq_true hc
    simp [updOf, hl]

/-- The scaler counts raw ticks modulo 4 (41_phase_clock.md R100). -/
theorem Edge.scaler_toNat (h : Edge i s t) (hk : s.known = true) (hr : ∀ b, i ≠ .reset b) :
    t.scaler.toNat = (s.scaler.toNat + if i = .tick then 1 else 0) % 4 := by
  cases h with
  | reset b s => exact absurd rfl (hr b)
  | unknownNop hu => simp [hk] at hu
  | unknownTick hu => simp [hk] at hu
  | nop hk => simp [Nat.mod_eq_of_lt s.scaler.isLt]
  | count hk hc => simp
  | advance hk hc hd => simp [hc]

end

/-! ### States that agree on the hardware -/

/-- Two states with the same registers, the same knowledge of them and the same table; the host's side is free. -/
structure SameHardware (s s' : State) : Prop where
  regs : s.toRegs = s'.toRegs
  known : s.known = s'.known
  rom : s.rom = s'.rom

/-- Counting the edge and taking the listed cycle is the host's side only. -/
theorem sameHardware_takeCycle (s : State) : SameHardware s (takeCycle s) := ⟨rfl, rfl, rfl⟩

/-- Listing cycles is the host's side only. -/
theorem sameHardware_withScript (cs : List HostCycle) (s : State) : SameHardware s (withScript cs s) := ⟨rfl, rfl, rfl⟩

/-- A reading by the host leaves the hardware as it is (10_state.md R28). -/
theorem sameHardware_of_hostRead {read : Bool} {u t : State} (h : hostRead read u = .next t) : SameHardware u t := by
  rcases hostRead_cases read u with ⟨-, hu⟩ | ⟨-, -, hu⟩ | ⟨-, -, hu⟩
  · obtain rfl : u = t := by simpa [hu] using h
    exact ⟨rfl, rfl, rfl⟩
  · obtain rfl : _ = t := by simpa [hu] using h
    exact ⟨rfl, rfl, rfl⟩
  · simp [hu] at h

section
variable {s s' : State}

theorem SameHardware.symm (h : SameHardware s s') : SameHardware s' s := ⟨h.regs.symm, h.known.symm, h.rom.symm⟩

theorem SameHardware.trans {s'' : State} (h : SameHardware s s') (h' : SameHardware s' s'') : SameHardware s s'' :=
  ⟨h.regs.trans h'.regs, h.known.trans h'.known, h.rom.trans h'.rom⟩

/-- The same hardware differs in the host's side only. -/
theorem SameHardware.eq_update (h : SameHardware s s') :
    s' = { s with pending := s'.pending, cycle := s'.cycle, readings := s'.readings } := by
  obtain ⟨hregs, hknown, hrom⟩ := h
  cases s; cases s'
  simp_all

/-- The output ports show the hardware only (10_state.md R27). -/
theorem SameHardware.outputs_eq (h : SameHardware s s') : outputs s = outputs s' := by
  rw [h.eq_update]
  rfl

/-- The clauses of 10_state.md R30 speak of the hardware only. -/
theorem SameHardware.consistent (h : SameHardware s s') (hs : Consistent s) : Consistent s' := by
  rw [h.eq_update]
  exact { hs with }

theorem SameHardware.inv (h : SameHardware s s') (hs : Inv s) : Inv s' :=
  fun hk => h.consistent (hs (h.known.trans hk))

/-- From a known state an operation does the same whatever the host's side (20_memory.md R51). -/
theorem SameHardware.edge {i : Instr} {t t' : State} (h : SameHardware s s') (hk : s.known = true)
    (ht : Edge i s t) (ht' : Edge i s' t') : SameHardware t t' := by
  suffices hu : ∃ u, Edge i s' u ∧ SameHardware t u by
    obtain ⟨u, hu, hsame⟩ := hu
    obtain rfl : u = t' := by simpa [hu.exec_eq] using ht'.exec_eq
    exact hsame
  rw [h.eq_update]
  cases ht with
  | reset b s => exact ⟨_, .reset b _, ⟨rfl, rfl, rfl⟩⟩
  | unknownNop hu => simp [hk] at hu
  | unknownTick hu => simp [hk] at hu
  | nop _ => exact ⟨_, .nop hk, ⟨rfl, rfl, rfl⟩⟩
  | count _ hc => exact ⟨_, .count hk hc, ⟨rfl, rfl, rfl⟩⟩
  | advance _ hc hd => exact ⟨_, .advance hk hc hd, ⟨rfl, rfl, rfl⟩⟩

end

/-! ### The invariant of 10_state.md R30 -/

/-- A state whose duty registers hold DUTY of its angle is consistent, as soon as its strobe is right. -/
theorem consistent_of_holdsDuty {s : State} {d : DutyPair} (hd : dutyOf s.rom s.phase = .ok d) (hs : holdsDuty s d)
    (hu : s.upd = 1 → s.scaler = 0) : Consistent s := by
  obtain ⟨hzero, hpos, hneg⟩ := dutyOf_laws hd
  obtain ⟨ha0, ha1, hb0, hb1⟩ := hs
  exact
    { channelsAgree := ⟨ha0.trans ha1.symm, hb0.trans hb1.symm⟩
      dutyOfPhase := by rw [hd, ha0, hb0]
      oneIsZero := by rwa [ha0, hb0]
      legal := ⟨ha0 ▸ hpos, ha1 ▸ hpos, hb0 ▸ hneg, hb1 ▸ hneg⟩
      strobe := hu }

/-- RESET_STATE is consistent with every table. -/
theorem consistent_toResetState (s : State) : Consistent (toResetState s) :=
  consistent_of_holdsDuty (dutyOf_zero s.rom) ⟨rfl, rfl, rfl, rfl⟩ fun _ => rfl

/-- Every operation keeps the invariant: RESET and an advance establish it afresh, a NOP and a counting TICK clear the
strobe and leave the duties and the angle. -/
theorem Edge.inv {i : Instr} {s t : State} (h : Edge i s t) (hs : Inv s) : Inv t := by
  intro hk
  cases h with
  | reset b s => exact consistent_toResetState s
  | unknownNop hu => simp at hk
  | unknownTick hu => simp at hk
  | nop hk => exact { hs hk with strobe := by simp }
  | count hk hc => exact { hs hk with strobe := by simp }
  | advance hk hc hd => exact consistent_of_holdsDuty hd ⟨rfl, rfl, rfl, rfl⟩ fun _ => rfl

/-! ### Control vectors -/

/-- TICK is exactly the vector with `rst_i` low and `tick_i` high (30_encoding.md R61). -/
theorem decode_ctrl_eq_tick_iff (rst tick : U1) : decode (ctrl rst tick) = .tick ↔ rst = 0 ∧ tick = 1 := by
  revert rst tick
  decide

/-- A vector decodes to RESET exactly when it drives `rst_i` high (30_encoding.md R61). -/
theorem resets_iff (v : U2) : resets v = true ↔ ∃ b, decode v = .reset b := by
  revert v
  decide

/-- The vectors that keep `rst_i` low decode to no RESET. -/
theorem decode_ne_reset {v : U2} (h : resets v = false) (b : Bool) : decode v ≠ .reset b := fun hb => by
  simp [(resets_iff v).mpr ⟨b, hb⟩] at h

/-- `rst_i` is the upper wire of the vector (30_encoding.md R60). -/
theorem resets_ctrl (rst tick : U1) : resets (ctrl rst tick) = decide (rst = 1) := by
  revert rst tick
  decide

/-- `rst_i` high decodes to RESET, with the tick offered beside it. -/
theorem decode_ctrl_one (b : U1) : decode (ctrl 1 b) = .reset (decide (b = 1)) := by
  revert b
  decide

@[simp] theorem noReset_cons (v : U2) (vs : List U2) : noReset (v :: vs) ↔ resets v = false ∧ noReset vs := by
  simp [noReset]

@[simp] theorem tickCount_nil : tickCount [] = 0 := rfl

/-- Each TICK counts once. -/
theorem tickCount_cons (v : U2) (vs : List U2) :
    tickCount (v :: vs) = tickCount vs + if decode v = .tick then 1 else 0 := by
  simp [tickCount, List.countP_cons, isTick]

/-! ### Runs of control vectors -/

/-- A run of no vectors only clears the list of cycles. -/
@[simp] theorem runVectors_nil (read : Bool) (s : State) : runVectors read [] s = .next (withScript [] s) := rfl

/-- The step of a state whose next listed cycle drives `v`. -/
theorem step_of_edge {s u : State} {v : U2} {read : Bool} {cs : List HostCycle} (hp : s.pending = ⟨v, read⟩ :: cs)
    (h : Edge (decode v) (takeCycle s) u) : step s = hostRead read u := by
  have hc : nextCycle s = ⟨v, read⟩ := by simp [nextCycle, hp]
  have hstep := step_of_exec (s := s) (t := u) (by rw [hc]; exact h.exec_eq)
  rwa [hc] at hstep

/-- A reading leaves the listed cycles. -/
theorem pending_of_hostRead {read : Bool} {u t : State} (h : hostRead read u = .next t) : t.pending = u.pending := by
  rcases hostRead_cases read u with ⟨-, hu⟩ | ⟨-, -, hu⟩ | ⟨-, -, hu⟩
  · obtain rfl : u = t := by simpa [hu] using h
    rfl
  · obtain rfl : _ = t := by simpa [hu] using h
    rfl
  · simp [hu] at h

/-- The state at the edge of the first vector of a run: the rest of the vectors listed, the edge counted. -/
def atFirstEdge (read : Bool) (vs : List U2) (s : State) : State := takeCycle (withScript (scriptOf read vs) s)

@[simp] theorem atFirstEdge_rom (read : Bool) (vs : List U2) (s : State) : (atFirstEdge read vs s).rom = s.rom := rfl
@[simp] theorem atFirstEdge_cycle (read : Bool) (vs : List U2) (s : State) :
    (atFirstEdge read vs s).cycle = s.cycle + 1 := rfl
@[simp] theorem atFirstEdge_readings (read : Bool) (vs : List U2) (s : State) :
    (atFirstEdge read vs s).readings = s.readings := rfl
@[simp] theorem atFirstEdge_known (read : Bool) (vs : List U2) (s : State) :
    (atFirstEdge read vs s).known = s.known := rfl

theorem sameHardware_atFirstEdge (read : Bool) (vs : List U2) (s : State) : SameHardware s (atFirstEdge read vs s) :=
  ⟨rfl, rfl, rfl⟩

/-- A run of vectors is the edge of the first, the host's reading, and the run of the others. -/
theorem runVectors_cons {read : Bool} {v : U2} {vs : List U2} {s u t : State}
    (h : Edge (decode v) (atFirstEdge read (v :: vs) s) u) (hr : hostRead read u = .next t) :
    runVectors read (v :: vs) s = runVectors read vs t := by
  have hstep : step (withScript (scriptOf read (v :: vs)) s) = .next t := (step_of_edge rfl h).trans hr
  have hp : t.pending = scriptOf read vs := by
    obtain ⟨-, hpending, -⟩ := h.frame
    rw [pending_of_hostRead hr, hpending]
    rfl
  have hown : withScript (scriptOf read vs) t = t := hp ▸ withScript_own t
  rw [runVectors, runVectors, hown, List.length_cons, runFor_succ_next hstep]

/-- The first vector of a run that is not read. -/
theorem runVectors_unread_cons {v : U2} {vs : List U2} {s u : State}
    (h : Edge (decode v) (atFirstEdge false (v :: vs) s) u) :
    runVectors false (v :: vs) s = runVectors false vs u := runVectors_cons h rfl

/-- The first vector of a run that is read, where its edge leads to a known state. -/
theorem runVectors_read_cons {v : U2} {vs : List U2} {s u : State}
    (h : Edge (decode v) (atFirstEdge true (v :: vs) s) u) (hk : u.known = true) :
    runVectors true (v :: vs) s = runVectors true vs { u with readings := u.readings ++ [outputs u] } :=
  runVectors_cons h (by simp [hostRead, readOutputs, hk])

/-- Induction over a run that is not read: a property of the state and the vectors still to come that every edge carries
on, and that does not speak of the listed cycles, holds where the run ends. -/
theorem runVectors_unread_induction {P : List U2 → State → Prop}
    (script : ∀ s, P [] s → P [] (withScript [] s))
    (edge : ∀ v vs s u, P (v :: vs) s → Edge (decode v) (atFirstEdge false (v :: vs) s) u → P vs u)
    (vs : List U2) : ∀ s, P vs s → ∃ t, runVectors false vs s = .next t ∧ P [] t := by
  induction vs with
  | nil => exact fun s hs => ⟨_, rfl, script s hs⟩
  | cons v vs ih =>
    intro s hs
    obtain ⟨u, hu⟩ := edge_total (decode v) (atFirstEdge false (v :: vs) s)
    rw [runVectors_unread_cons hu]
    exact ih u (edge v vs s u hs hu)

/-- What a run carries on from a RESET: the state is known and meets the invariant of 10_state.md R30. -/
def KnownConsistent (s : State) : Prop := s.known = true ∧ Consistent s

/-- Every edge from a known and consistent state leads to one. -/
theorem Edge.knownConsistent {i : Instr} {s t : State} (h : Edge i s t) (hs : KnownConsistent s) : KnownConsistent t := by
  obtain ⟨hk, hcons⟩ := hs
  exact ⟨h.known hk, h.inv (fun _ => hcons) (h.known hk)⟩

/-- A run from a known and consistent state ends in one. -/
theorem runVectors_unread_consistent (vs : List U2) {s : State} (hs : KnownConsistent s) :
    ∃ t, runVectors false vs s = .next t ∧ KnownConsistent t := by
  refine runVectors_unread_induction (P := fun _ => KnownConsistent) ?script ?edge vs s hs
  case script =>
    rintro s ⟨hk, hcons⟩
    exact ⟨hk, (sameHardware_withScript [] s).consistent hcons⟩
  case edge =>
    rintro v vs s u ⟨hk, hcons⟩ hu
    exact hu.knownConsistent ⟨hk, (sameHardware_atFirstEdge false (v :: vs) s).consistent hcons⟩

/-- The scaler of a known state and the raw ticks still to come, with no reset among them, make up `n` modulo 4. -/
def CountsTo (n : Nat) (vs : List U2) (s : State) : Prop :=
  s.known = true ∧ noReset vs ∧ (s.scaler.toNat + tickCount vs) % 4 = n % 4

/-- Without a reset the scaler counts the raw ticks of a run modulo 4 (41_phase_clock.md R104). -/
theorem runVectors_unread_scaler (vs : List U2) {s : State} (hk : s.known = true) (hr : noReset vs) :
    ∃ t, runVectors false vs s = .next t ∧ t.scaler.toNat = (s.scaler.toNat + tickCount vs) % 4 := by
  have hrun := runVectors_unread_induction (P := CountsTo (s.scaler.toNat + tickCount vs)) (fun _ h => h) ?edge
    vs s ⟨hk, hr, rfl⟩
  case edge =>
    rintro v vs x u ⟨hx, hvs, hcount⟩ hu
    obtain ⟨hv, hvs⟩ := (noReset_cons v vs).mp hvs
    have hscaler : u.scaler.toNat = (x.scaler.toNat + if decode v = .tick then 1 else 0) % 4 :=
      hu.scaler_toNat hx (decode_ne_reset hv)
    rw [tickCount_cons] at hcount
    exact ⟨hu.known hx, hvs, by omega⟩
  obtain ⟨t, ht, -, -, hcount⟩ := hrun
  have hlt := t.scaler.isLt
  rw [tickCount_nil] at hcount
  exact ⟨t, ht, by omega⟩

/-- The state is unknown, no reset is to come, and the run will have had `n` edges at its end. -/
def UnknownUntil (n : Nat) (vs : List U2) (s : State) : Prop :=
  s.known = false ∧ noReset vs ∧ s.cycle + vs.length = n

/-- Without a reset an unknown state stays unknown over a run, and every vector is one cycle (44_tick_step.md R167). -/
theorem runVectors_unread_unknown (vs : List U2) {s : State} (hk : s.known = false) (hr : noReset vs) :
    ∃ t, runVectors false vs s = .next t ∧ t.known = false ∧ t.cycle = s.cycle + vs.length := by
  have hrun := runVectors_unread_induction (P := UnknownUntil (s.cycle + vs.length)) (fun _ h => h) ?edge
    vs s ⟨hk, hr, rfl⟩
  case edge =>
    rintro v vs x u ⟨hx, hvs, hlength⟩ hu
    obtain ⟨hv, hvs⟩ := (noReset_cons v vs).mp hvs
    obtain ⟨-, -, hcycle, -⟩ := hu.frame
    rw [List.length_cons] at hlength
    rw [atFirstEdge_cycle] at hcycle
    exact ⟨hu.unknown hx (decode_ne_reset hv), hvs, by omega⟩
  obtain ⟨t, ht, hunknown, -, hlength⟩ := hrun
  exact ⟨t, ht, hunknown, hlength⟩

/-! ### Two runs -/

/-- Both states run on over the read vectors `vs`, read the same outputs, one per vector, and end with the same
registers. -/
def ReadAlike (vs : List U2) (s s' : State) : Prop :=
  ∃ t t' os, runVectors true vs s = .next t ∧ runVectors true vs s' = .next t' ∧
    t.readings = s.readings ++ os ∧ t'.readings = s'.readings ++ os ∧ os.length = vs.length ∧ t.toRegs = t'.toRegs

/-- Two runs whose first edges lead to the same known hardware read alike, if all such states read the other vectors
alike. -/
theorem readAlike_cons {v : U2} {vs : List U2} {s s' u u' : State}
    (hu : Edge (decode v) (atFirstEdge true (v :: vs) s) u) (hu' : Edge (decode v) (atFirstEdge true (v :: vs) s') u')
    (hk : u.known = true) (hsame : SameHardware u u')
    (tail : ∀ x x', x.known = true → SameHardware x x' → ReadAlike vs x x') : ReadAlike (v :: vs) s s' := by
  obtain ⟨t, t', os, ht, ht', hos, hos', hlength, hregs⟩ := tail { u with readings := u.readings ++ [outputs u] }
    { u' with readings := u'.readings ++ [outputs u'] } hk ⟨hsame.regs, hsame.known, hsame.rom⟩
  obtain ⟨-, -, -, hreadings⟩ := hu.frame
  obtain ⟨-, -, -, hreadings'⟩ := hu'.frame
  refine ⟨t, t', outputs u :: os, ?_, ?_, ?_, ?_, ?_, hregs⟩
  · rw [runVectors_read_cons hu hk, ht]
  · rw [runVectors_read_cons hu' (hsame.known.symm.trans hk), ht']
  · simp [hos, hreadings]
  · simp [hos', hreadings', hsame.outputs_eq]
  · simp [hlength]

/-- Known states with the same hardware read every sequence of vectors alike. -/
theorem readAlike_of_sameHardware (vs : List U2) :
    ∀ s s', s.known = true → SameHardware s s' → ReadAlike vs s s' := by
  induction vs with
  | nil =>
    intro s s' _ hsame
    exact ⟨_, _, [], rfl, rfl, by simp, by simp, rfl, hsame.regs⟩
  | cons v vs ih =>
    intro s s' hk hsame
    obtain ⟨u, hu⟩ := edge_total (decode v) (atFirstEdge true (v :: vs) s)
    obtain ⟨u', hu'⟩ := edge_total (decode v) (atFirstEdge true (v :: vs) s')
    have hedge : SameHardware (atFirstEdge true (v :: vs) s) (atFirstEdge true (v :: vs) s') :=
      (sameHardware_atFirstEdge true (v :: vs) s).symm.trans (hsame.trans (sameHardware_atFirstEdge true (v :: vs) s'))
    exact readAlike_cons hu hu' (hu.known hk) (hedge.edge hk hu hu') ih

/-- The edge of a vector that drives `rst_i` high. -/
theorem edge_ctrl_one (b : U1) (s : State) : Edge (decode (ctrl 1 b)) s (toResetState s) := by
  rw [decode_ctrl_one]
  exact .reset _ s

/-! ### The obligations -/

/-- Settles O20: the edge keeps the invariant, and taking the cycle and reading leave the hardware. -/
theorem stepKeepsConsistency : Obligations.StepKeepsConsistency := by
  intro s t hs h
  obtain ⟨u, hu, hread⟩ := step_next h
  have hinv : Inv u := (exec_next_iff.mp hu).inv ((sameHardware_takeCycle s).inv hs)
  exact (sameHardware_of_hostRead hread).inv hinv

/-- Settles O15, by the cases of an edge. -/
theorem writersOfEachRegister : Obligations.WritersOfEachRegister := by
  intro i s hk
  obtain ⟨t, h⟩ := edge_total i s
  refine ⟨t, h.exec_eq, h.known hk, ?_⟩
  cases h with
  | reset b s => simp
  | unknownNop hu => simp [hk] at hu
  | unknownTick hu => simp [hk] at hu
  | nop hk => exact ⟨fun h => absurd rfl h, fun h => absurd rfl h, fun r h => absurd (by cases r <;> rfl) h⟩
  | count hk hc => exact ⟨fun h => absurd rfl h, fun _ => .inr rfl, fun r h => absurd (by cases r <;> rfl) h⟩
  | advance hk hc hd => exact ⟨fun _ => .inr ⟨rfl, hc⟩, fun _ => .inr rfl, fun _ _ => .inr ⟨rfl, hc⟩⟩

/-- Settles O19. -/
theorem strobeMarksAdvances : Obligations.StrobeMarksAdvances := by
  intro s rst tick
  obtain ⟨t, h⟩ := edge_total (decode (ctrl rst tick)) s
  have hupd (hk : s.known = true) : t.upd = nextUpd rst tick s.scaler := by
    rw [h.upd_eq hk, nextUpd, decide_eq_decide.mpr (decode_ctrl_eq_tick_iff rst tick), Bool.decide_and]
  refine ⟨t, h.exec_eq, fun hk => ?_, hupd, fun hk hrst => ?_⟩
  · rw [hupd hk, nextUpd, updOf, atLastCount]
    simp only [Bool.and_eq_true, decide_eq_true_eq, and_assoc]
  · have hlow : resets (ctrl rst tick) = false := by
      rw [resets_ctrl, hrst]
      rfl
    exact h.unknown hk (decode_ne_reset hlow)

/-- Settles O22: RESET establishes the invariant, and the rest of the run keeps it. That no RESET intervenes is not needed:
a further one would establish the invariant again. -/
theorem consistentAfterReset : Obligations.ConsistentAfterReset := by
  intro s b vs _
  obtain ⟨t, ht, -, hcons⟩ := runVectors_unread_consistent vs
    (s := toResetState (atFirstEdge false (ctrl 1 b :: vs) s)) ⟨rfl, consistent_toResetState _⟩
  obtain ⟨⟨hA, hB⟩, hduty, hzero, ⟨hA0, hA1, hB0, hB1⟩, hstrobe⟩ := hcons
  refine ⟨t, by rw [runVectors_unread_cons (edge_ctrl_one b _), ht], hA, hB, hduty, hzero, ?_, hstrobe⟩
  intro r
  cases r with
  | a0 => exact hA0
  | a1 => exact hA1
  | b0 => exact hB0
  | b1 => exact hB1

/-- Settles O23: by the invariant the scaler is 0 while `upd` is 1, and from there it counts. -/
theorem scalerIsTicksSinceStrobe : Obligations.ScalerIsTicksSinceStrobe := by
  intro s vs hk hcons hupd hr hle
  obtain ⟨t, ht, hscaler⟩ := runVectors_unread_scaler vs hk hr
  have hzero : s.scaler.toNat = 0 := by simp [hcons.strobe hupd]
  exact ⟨t, ht, by omega⟩

/-- Settles O28: RESET makes the hardware of both machines the same, and then they read alike. -/
theorem outputsForgetEverythingBeforeReset : Obligations.OutputsForgetEverythingBeforeReset := by
  intro s s' b vs hrom
  exact readAlike_cons (edge_ctrl_one b _) (edge_ctrl_one b _) rfl ⟨rfl, rfl, hrom⟩ (readAlike_of_sameHardware vs)

/-- Settles O29. -/
theorem readingGivesThePortsOrUnresetRead : Obligations.ReadingGivesThePortsOrUnresetRead := by
  intro s
  constructor
  · intro hk
    simp [readOutputs, hk, outputs, dutyOut]
  · intro hk
    simp [readOutputs, hk]

/-- Settles O34: a run without a reset keeps the power-on state unknown, and every vector is one cycle. -/
theorem powerOnIsUnknown : Obligations.PowerOnIsUnknown := by
  intro n rom
  have hfault (s : State) (hk : s.known = false) : readOutputs s = .fault (.unresetRead s.cycle) :=
    (readingGivesThePortsOrUnresetRead s).2 hk
  refine ⟨rfl, rfl, hfault _ rfl, fun vs t hr h => ?_⟩
  obtain ⟨t', ht', hk, hcycle⟩ := runVectors_unread_unknown vs (s := powerOnState n rom) rfl hr
  obtain rfl : t' = t := by simpa [ht'] using h
  rw [hfault t' hk, hcycle]
  simp [powerOnState]

/-- Settles O21. -/
theorem resetStateIsConsistent : Obligations.ResetStateIsConsistent := by
  refine ⟨fun _ => consistent_toResetState State.reset, fun s t b h => ?_⟩
  cases exec_next_iff.mp h with
  | reset b s => exact ⟨rfl, consistent_toResetState s⟩

end Sys2Proof.Machine
end

section
/-! PROOFS. The memory of spec/20_memory.md: the sine ROM is constant, and the four duty registers change together. -/

namespace Sys2Proof.Machine

/-! ### What a step and a run carry on -/

/-- No step writes the configuration: the edge and the host's reading both keep the ROM (20_memory.md R40). -/
theorem step_rom {s t : State} (h : step s = .next t) : t.rom = s.rom := by
  obtain ⟨u, hu, hread⟩ := step_next h
  obtain ⟨hrom, -⟩ := (exec_next_iff.mp hu).frame
  calc t.rom = u.rom := (sameHardware_of_hostRead hread).rom.symm
    _ = (takeCycle s).rom := hrom
    _ = s.rom := takeCycle_rom s

/-- A run of `k + 1` cycles is answered exactly when its first step is, and then the run of the other `k`. -/
theorem runFor_succ_eq_next_iff {k : Nat} {s t : State} :
    runFor (k + 1) s = .next t ↔ ∃ u, step s = .next u ∧ runFor k u = .next t := by
  rw [runFor]
  cases step s <;> simp

/-- Induction over a run of any length, read or not: a property that every step carries on holds where the run ends. -/
theorem runFor_induction {P : State → Prop} (hstep : ∀ s t, P s → step s = .next t → P t) (k : Nat) :
    ∀ {s t : State}, P s → runFor k s = .next t → P t := by
  induction k with
  | zero =>
    intro s t hs h
    cases h
    exact hs
  | succ k ih =>
    intro s t hs h
    obtain ⟨u, hu, hrun⟩ := runFor_succ_eq_next_iff.mp h
    exact ih (hstep s u hs hu) hrun

/-! ### The duty registers -/

/-- The duty ports show the four duty registers and nothing else (10_state.md R27). -/
theorem dutyOut_congr {s t : State} (hA0 : t.dutyA0 = s.dutyA0) (hA1 : t.dutyA1 = s.dutyA1)
    (hB0 : t.dutyB0 = s.dutyB0) (hB1 : t.dutyB1 = s.dutyB1) (r : DutyReg) : dutyOut r t = dutyOut r s := by
  cases r with
  | a0 => exact hA0
  | a1 => exact hA1
  | b0 => exact hB0
  | b1 => exact hB1

/-- PROGRAM writes all four duty registers at once, pair A the positive and pair B the negative value
(43_pwm_writer.md R142). -/
theorem holdsDuty_program (d : DutyPair) (s : State) : holdsDuty (program d s) d := ⟨rfl, rfl, rfl, rfl⟩

/-- RESET writes all four duty registers at once (70_reset_and_hazards.md R200). -/
theorem holdsDuty_toResetState (s : State) : holdsDuty (toResetState s) ⟨0, 0⟩ := ⟨rfl, rfl, rfl, rfl⟩

/-- An edge from a known state leaves all four duties, or sets all four to DUTY of the angle then held: a NOP and a
counting TICK write none, RESET and an advance write all (20_memory.md R48). -/
theorem Edge.duties {i : Instr} {s t : State} (h : Edge i s t) (hk : s.known = true) :
    (∀ r, dutyOut r t = dutyOut r s) ∨ ∃ d, dutyOf s.rom t.phase = .ok d ∧ holdsDuty t d := by
  cases h with
  | reset b s => exact .inr ⟨⟨0, 0⟩, dutyOf_zero s.rom, holdsDuty_toResetState s⟩
  | unknownNop hu => simp [hk] at hu
  | unknownTick hu => simp [hk] at hu
  | nop hk => exact .inl (dutyOut_congr rfl rfl rfl rfl)
  | count hk hc => exact .inl (dutyOut_congr rfl rfl rfl rfl)
  | @advance _ d hk hc hd => exact .inr ⟨d, hd, holdsDuty_program d _⟩

/-! ### The obligations -/

/-- Settles O17, by induction on the run: every step keeps the ROM. -/
theorem romIsConstantOverRuns : Obligations.RomIsConstantOverRuns := by
  intro k s t h
  exact runFor_induction (P := fun x => x.rom = s.rom) (fun x u hx hu => (step_rom hu).trans hx) k rfl h

/-- Settles O18, by the cases of an edge. -/
theorem dutiesChangeTogether : Obligations.DutiesChangeTogether := by
  intro i s hk
  obtain ⟨t, h⟩ := edge_total i s
  exact ⟨t, h.exec_eq, h.duties hk⟩

/-- Settles O16, by the frame of an edge; the bytes read from the ROM are those of an equal ROM. -/
theorem operationsKeepRomAndHostSide : Obligations.OperationsKeepRomAndHostSide := by
  intro i s t h
  obtain ⟨hrom, hpending, hcycle, hreadings⟩ := (exec_next_iff.mp h).frame
  exact ⟨hrom, hpending, hcycle, hreadings, fun a => by rw [hrom]⟩

end Sys2Proof.Machine
end

section
/-! PROOFS. The encodings of spec/30_encoding.md: the control vectors, the opcode table's words, the fold index and the
bands, and the pseudo-operations. -/

namespace Sys2Proof.Machine

/-! ### Control vectors and words -/

/-- NOP is the one vector with both wires low (30_encoding.md R61). -/
theorem decode_eq_nop_iff (v : U2) : decode v = .nop ↔ v &&& 0b11#2 = 0b00#2 := by
  revert v
  decide

/-- TICK is the one vector with only `tick_i` high (30_encoding.md R61). -/
theorem decode_eq_tick_iff (v : U2) : decode v = .tick ↔ v &&& 0b11#2 = 0b01#2 := by
  revert v
  decide

/-- RESET is every vector with `rst_i` high: its row does not look at `tick_i` (30_encoding.md R61). -/
theorem decode_eq_reset_iff (v : U2) : (∃ t, decode v = .reset t) ↔ v &&& 0b10#2 = 0b10#2 := by
  revert v
  decide

/-- An operation is read back from its own vector. -/
theorem decode_encode (i : Instr) : decode (encode i) = i := by
  cases i with
  | nop => rfl
  | tick => rfl
  | reset t => cases t <;> rfl

/-- No operation is ill-formed (30_encoding.md R62). -/
theorem wellFormed_all (i : Instr) : i.wellFormed = true := by
  cases i <;> rfl

/-- Two vectors with the same operation are equal: RESET keeps the tick offered with it. -/
theorem encode_decode (v : U2) : encode (decode v) = v := by
  revert v
  decide

/-- A word is read as an operation exactly when it holds a control vector, and then as the decode of that vector. -/
theorem decodeTableWord_eq_some_iff {nbits w : Nat} {i : Instr} :
    decodeTableWord nbits w = some i ↔ ∃ v, ctrlOfWord nbits w = .ok v ∧ decode v = i := by
  unfold decodeTableWord decodeWord
  cases ctrlOfWord nbits w <;> simp

/-- A word of `nbits` bits that needs more than the two wires holds no control vector. -/
theorem ctrlOfWord_wide {nbits w : Nat} (hlo : 4 ≤ w) (hhi : w < 2 ^ nbits) :
    ctrlOfWord nbits w = .error (.notCtrl2 w) := by
  have hfits : ctrlWordFits w = false := decide_eq_false (Nat.not_lt.mpr hlo)
  simp [ctrlOfWord, Nat.mod_eq_of_lt hhi, hfits]

/-- Such a word is refused by name (log 5). -/
theorem decodeWord_wide {nbits w : Nat} (hlo : 4 ≤ w) (hhi : w < 2 ^ nbits) :
    decodeWord nbits w = .error (.notCtrl2 w) := by
  rw [decodeWord, ctrlOfWord_wide hlo hhi]

/-- Placing a word that holds a control vector lists that vector, unread, for the coming cycle (log 4). -/
theorem withFetchWord_of_ctrl {nbits w : Nat} {v : U2} (h : ctrlOfWord nbits w = .ok v) (s : State) :
    s.withFetchWord nbits w = { s with pending := ⟨v, false⟩ :: s.pending.tail } := by
  rw [State.withFetchWord, presentWord, h]

/-- The step of an unread listed cycle is its operation alone. -/
theorem step_of_unread {s : State} {v : U2} {cs : List HostCycle} (hp : s.pending = ⟨v, false⟩ :: cs) :
    step s = exec (decode v) (takeCycle s) := by
  obtain ⟨u, hu⟩ := edge_total (decode v) (takeCycle s)
  rw [step_of_edge hp hu, hu.exec_eq]
  rfl

/-! ### Bands, fold index and SINE -/

/-- The bands by the angle's value (30_encoding.md R66). -/
theorem bandOf_eq_q2_iff (a : U7) : bandOf a = .q2 ↔ 32 < a.toNat ∧ a.toNat ≤ 64 := by
  simp only [bandOf]
  split_ifs <;> simp <;> omega

theorem bandOf_eq_q3_iff (a : U7) : bandOf a = .q3 ↔ 64 < a.toNat ∧ a.toNat ≤ 96 := by
  simp only [bandOf]
  split_ifs <;> simp <;> omega

theorem bandOf_eq_q4_iff (a : U7) : bandOf a = .q4 ↔ 96 < a.toNat := by
  simp only [bandOf]
  split_ifs <;> simp <;> omega

/-- The quarter-wave stage answers the quarter-wave value, the peak 127 at index 32 and above (40_sine_lut.md R84). -/
theorem quarter_eq_quarterAt (rom : SineRom) (idx : U6) :
    ∃ q, quarter rom idx = .ok q ∧ q.toNat = quarterAt rom idx.toNat := by
  rcases quarter_cases rom idx with ⟨hlt, b, q, hread, hq, hqb⟩ | ⟨hge, hq⟩
  · exact ⟨q, hq, by simp [quarterAt, hlt, entry, hread, hqb]⟩
  · exact ⟨127, hq, by simp [quarterAt, Nat.not_lt.mpr hge]⟩

/-- The four bands written out are the fold: the quarter-wave value at the fold index, above the midpoint up to angle 64
and below it from there on (30_encoding.md R66, 40_sine_lut.md R83). -/
theorem sineTable_eq_fold (rom : SineRom) (a : U7) :
    sineTable rom a.toNat =
      if a.toNat ≤ 64 then 127 + quarterAt rom (foldIndex a).toNat
      else 127 - quarterAt rom (foldIndex a).toNat := by
  rw [foldIndex_toNat, sineTable]
  split_ifs <;> omega

/-! ### Raw ticks and advances of a run that is read -/

/-- An edge without a reset counts its raw tick in the scaler or, carrying, in the strobe, and the phase moves with the
strobe (41_phase_clock.md R100). -/
theorem Edge.counts {i : Instr} {s t : State} (h : Edge i s t) (hk : s.known = true) (hr : ∀ b, i ≠ .reset b) :
    4 * t.upd.toNat + t.scaler.toNat = s.scaler.toNat + (if i = .tick then 1 else 0) ∧
      t.phase.toNat = (s.phase.toNat + t.upd.toNat) % 128 := by
  have hphase : s.phase.toNat % 128 = s.phase.toNat := Nat.mod_eq_of_lt s.phase.isLt
  cases h with
  | reset b s => exact absurd rfl (hr b)
  | unknownNop hu => simp [hk] at hu
  | unknownTick hu => simp [hk] at hu
  | nop hk => simp [hphase]
  | count hk hc =>
    rcases advance_cases s.phase s.scaler with ⟨h3, -⟩ | ⟨-, -, hsucc⟩
    · exact absurd h3 hc
    · simpa [hphase] using hsucc
  | advance hk hc hd => simp [hc]

@[simp] theorem eventCount_nil : eventCount [] = 0 := rfl

/-- Each reading with the strobe high counts once. -/
theorem eventCount_cons (o : Outputs) (os : List Outputs) : eventCount (o :: os) = eventCount os + o.updO.toNat := by
  have hbit : ∀ u : U1, (if decide (u = 1) = true then 1 else 0) = u.toNat := by decide
  rw [eventCount, eventCount, List.countP_cons, hbit]

/-- Without a reset every four raw ticks of a run make one advance, which is read as one strobe; the scaler keeps the
rest (41_phase_clock.md R104). -/
theorem runVectors_read_counts (vs : List U2) : ∀ {s : State}, s.known = true → noReset vs →
    ∃ t os, runVectors true vs s = .next t ∧ t.readings = s.readings ++ os ∧
      4 * eventCount os + t.scaler.toNat = s.scaler.toNat + tickCount vs ∧
      t.phase.toNat = (s.phase.toNat + eventCount os) % 128 := by
  induction vs with
  | nil =>
    intro s _ _
    exact ⟨_, [], rfl, by simp, by simp, (Nat.mod_eq_of_lt s.phase.isLt).symm⟩
  | cons v vs ih =>
    intro s hk hr
    obtain ⟨hv, hvs⟩ := (noReset_cons v vs).mp hr
    obtain ⟨u, hu⟩ := edge_total (decode v) (atFirstEdge true (v :: vs) s)
    have hku : u.known = true := hu.known hk
    obtain ⟨-, -, -, hreadings⟩ := hu.frame
    obtain ⟨hticks, hphase⟩ := hu.counts hk (decode_ne_reset hv)
    obtain ⟨t, os, ht, hos, hticks', hphase'⟩ := ih (s := { u with readings := u.readings ++ [outputs u] }) hku hvs
    have hcount : eventCount (outputs u :: os) = eventCount os + u.upd.toNat := eventCount_cons _ _
    have hregs : (atFirstEdge true (v :: vs) s).toRegs = s.toRegs := rfl
    rw [hregs] at hticks hphase
    rw [tickCount_cons]
    dsimp only at hticks' hphase'
    refine ⟨t, outputs u :: os, by rw [runVectors_read_cons hu hku, ht], by simp [hos, hreadings],
      by omega, by omega⟩

/-- `n` raw ticks in a row. -/
theorem tickCount_replicate_tick (n : Nat) : tickCount (List.replicate n 0b01#2) = n := by
  rw [tickCount, List.countP_replicate, if_pos (by decide)]

/-- Raw ticks alone are no reset. -/
theorem noReset_replicate_tick (n : Nat) : noReset (List.replicate n 0b01#2) := by
  intro v hv
  rw [List.eq_of_mem_replicate hv]
  decide

/-- `4 * n` raw ticks from a known state make exactly `n` advances and leave the scaler where it was
(30_encoding.md R73). -/
theorem runVectors_read_ticks (n : Nat) {s : State} (hk : s.known = true) :
    ∃ t os, runVectors true (List.replicate (4 * n) 0b01#2) s = .next t ∧ t.readings = s.readings ++ os ∧
      eventCount os = n ∧ t.phase.toNat = (s.phase.toNat + n) % 128 ∧ t.scaler = s.scaler := by
  obtain ⟨t, os, ht, hos, hticks, hphase⟩ := runVectors_read_counts _ hk (noReset_replicate_tick (4 * n))
  rw [tickCount_replicate_tick] at hticks
  have hlt := t.scaler.isLt
  have hlt' := s.scaler.isLt
  have hcount : eventCount os = n := by omega
  exact ⟨t, os, ht, hos, hcount, hcount ▸ hphase, BitVec.eq_of_toNat_eq (by omega)⟩

/-! ### The vectors of a line -/

/-- A line whose mnemonic stands for `k` copies of one vector stands for `k` times as many as it counts. -/
theorem lineVectors_replicate {op : LineOp} {k : Nat} {v : U2} (h : lineOpVectors op = List.replicate k v) (n : Nat) :
    lineVectors ⟨op, n⟩ = List.replicate (n * k) v := by
  simp [lineVectors, h, List.flatten_replicate_replicate]

/-- A mnemonic of R72 with a count stands for that many copies of its vector. -/
theorem lineVectors_singleton {op : LineOp} {v : U2} (h : lineOpVectors op = [v]) (n : Nat) :
    lineVectors ⟨op, n⟩ = List.replicate n v := by
  simpa using lineVectors_replicate (k := 1) h n

/-! ### The obligations -/

/-- Settles O5: STEP and CYCLE are 4 · 1 and 4 · 128 raw ticks, and 128 advances are a whole turn of the phase. -/
theorem pseudoOperationsAdvance : Obligations.PseudoOperationsAdvance := by
  have hstep : lineVectors ⟨.step, 1⟩ = List.replicate (4 * 1) 0b01#2 := lineVectors_replicate (k := 4) rfl 1
  have hcycle : lineVectors ⟨.cycle, 1⟩ = List.replicate (4 * 128) 0b01#2 := lineVectors_replicate (k := 512) rfl 1
  rw [Obligations.PseudoOperationsAdvance, hstep, hcycle]
  refine ⟨(lineVectors_singleton rfl 4).symm, (lineVectors_singleton rfl 512).symm, fun s hk => ⟨?_, ?_⟩⟩
  · obtain ⟨t, os, ht, hos, hcount, hphase, -⟩ := runVectors_read_ticks 1 hk
    exact ⟨t, os, ht, hos, hcount, BitVec.eq_of_toNat_eq (by simpa using hphase)⟩
  · obtain ⟨t, os, ht, hos, hcount, hphase, hscaler⟩ := runVectors_read_ticks 128 hk
    have hlt := s.phase.isLt
    exact ⟨t, os, ht, hos, hcount, BitVec.eq_of_toNat_eq (by omega), hscaler⟩

/-- Settles O39: both sides are the quarter-wave value at the fold index, on the side of the midpoint that the sign says. -/
theorem sineFollowsTheBands : Obligations.SineFollowsTheBands := by
  intro rom a
  obtain ⟨q, hq, hsine⟩ := sine_cases rom a
  obtain ⟨q', hq', hvalue⟩ := quarter_eq_quarterAt rom (foldIndex a)
  obtain rfl : q = q' := by simpa [hq] using hq'
  refine ⟨_, hsine, ?_⟩
  rw [sampleOf_toNat, foldPositive_eq, sineTable_eq_fold, hvalue]
  simp

/-- Settles O1. -/
theorem decodeFollowsTable : Obligations.DecodeFollowsTable :=
  ⟨rfl, rfl, rfl, rfl, decode_eq_nop_iff, decode_eq_tick_iff, decode_eq_reset_iff, rfl⟩

/-- Settles O2. -/
theorem decodeAndEncodeAgree : Obligations.DecodeAndEncodeAgree :=
  ⟨fun i => ⟨wellFormed_all i, decode_encode i⟩, encode_decode⟩

/-- Settles O3. -/
theorem tableWordsDecode : Obligations.TableWordsDecode := by
  refine ⟨rfl, rfl, rfl, rfl, fun w hlo hhi => ?_⟩
  have hword : decodeWord 8 w = .error (.notCtrl2 w) := decodeWord_wide hlo hhi
  exact ⟨by rw [decodeTableWord, hword], hword⟩

/-- Settles O7: the word's vector is listed unread for the coming cycle, and the step is its operation alone. -/
theorem placedWordRunsNext : Obligations.PlacedWordRunsNext := by
  intro s nbits w i h
  obtain ⟨v, hv, rfl⟩ := decodeTableWord_eq_some_iff.mp h
  rw [withFetchWord_of_ctrl hv]
  exact step_of_unread rfl

/-- Settles O38, by the bands of the angle. -/
theorem foldIndexRanges : Obligations.FoldIndexRanges := by
  intro a
  have hlt := a.isLt
  rw [foldIndex_toNat, bandOf_eq_q2_iff, bandOf_eq_q3_iff, bandOf_eq_q4_iff]
  split_ifs <;> omega

end Sys2Proof.Machine
end

section
/-! PROOFS. The text of input lines (30_encoding.md R72): counts, words, lines and whole texts read back. -/

namespace Sys2Proof.Machine

/-! ### Decimal numerals -/

/-- The digits stand in order in the character code. -/
theorem digitChar_toNat {d : Nat} (h : d < 10) : (digitChar d).toNat = 48 + d := by
  interval_cases d <;> rfl

/-- Reading a digit adds it behind the value read before. -/
theorem decimalFrom_digitChar {d : Nat} (h : d < 10) (m : Nat) (cs : List Char) :
    decimalFrom m (digitChar d :: cs) = decimalFrom (10 * m + d) cs := by
  rw [decimalFrom, digitChar_toNat h, if_pos (by omega)]
  congr 1
  omega

/-- Reading the numeral written for `n` before `cs` is reading `cs` on from `n`, as soon as the fuel covers `n`. -/
theorem decimalFrom_decimalTextFrom (fuel : Nat) : ∀ (n : Nat) (cs : List Char), n < fuel →
    decimalFrom 0 (decimalTextFrom fuel n cs) = decimalFrom n cs := by
  induction fuel with
  | zero => intro n cs h; omega
  | succ fuel ih =>
    intro n cs h
    rw [decimalTextFrom]
    split
    next hn => rw [decimalFrom_digitChar hn, Nat.mul_zero, Nat.zero_add]
    next hn =>
      rw [ih (n / 10) _ (by omega), decimalFrom_digitChar (Nat.mod_lt n (by decide)), Nat.div_add_mod]

/-- A numeral of at least one digit is put before the text. -/
theorem decimalTextFrom_ne_nil {fuel n : Nat} {cs : List Char} (h : 0 < fuel ∨ cs ≠ []) :
    decimalTextFrom fuel n cs ≠ [] := by
  induction fuel generalizing n cs with
  | zero => simpa [decimalTextFrom] using h
  | succ fuel ih =>
    rw [decimalTextFrom]
    split
    · exact List.cons_ne_nil _ _
    · exact ih (.inr (List.cons_ne_nil _ _))

/-- The count written is the count read (30_encoding.md R72). -/
theorem countOf_decimalText (n : Nat) : countOf ('*' :: decimalText n) = some n := by
  have hread : decimalFrom 0 (decimalText n) = some n := decimalFrom_decimalTextFrom (n + 1) n [] (by omega)
  obtain ⟨d, ds, hcons⟩ := List.exists_cons_of_ne_nil (decimalTextFrom_ne_nil (n := n) (cs := []) (.inl n.succ_pos))
  rw [decimalText, hcons] at hread ⊢
  exact hread

/-! ### Words -/

/-- A character that can stand in a word of a line: a printing one that starts no comment. -/
def isWordChar (c : Char) : Bool := decide (32 < c.toNat) && decide (c ≠ '#')

/-- A blank of any kind and a line feed are no word characters. -/
theorem ne_of_isWordChar {c sep : Char} (hc : isWordChar c = true) (hsep : isWordChar sep = false) : c ≠ sep := by
  rintro rfl
  simp [hc] at hsep

theorem isWordChar_digitChar {d : Nat} (h : d < 10) : isWordChar (digitChar d) = true := by
  interval_cases d <;> rfl

/-- A numeral put before word characters makes word characters only. -/
theorem isWordChar_decimalTextFrom (fuel : Nat) : ∀ (n : Nat) (cs : List Char), (∀ c ∈ cs, isWordChar c = true) →
    ∀ c ∈ decimalTextFrom fuel n cs, isWordChar c = true := by
  induction fuel with
  | zero => exact fun _ _ h => h
  | succ fuel ih =>
    intro n cs h
    rw [decimalTextFrom]
    split
    next hn => exact List.forall_mem_cons.mpr ⟨isWordChar_digitChar hn, h⟩
    next hn => exact ih _ _ (List.forall_mem_cons.mpr ⟨isWordChar_digitChar (Nat.mod_lt n (by decide)), h⟩)

/-- The word `*n` of a count. -/
theorem isWordChar_countText (n : Nat) : ∀ c ∈ '*' :: decimalText n, isWordChar c = true :=
  List.forall_mem_cons.mpr ⟨rfl, isWordChar_decimalTextFrom (n + 1) n [] (by simp)⟩

theorem isWordChar_lineOpText (op : LineOp) : ∀ c ∈ lineOpText op, isWordChar c = true :=
  List.all_eq_true.mp (by cases op <;> rfl)

theorem lineOpText_ne_nil (op : LineOp) : lineOpText op ≠ [] := by
  cases op <;> exact List.cons_ne_nil _ _

/-- Each mnemonic is read as its own operation (30_encoding.md R72, R73). -/
theorem lineOpOf_lineOpText (op : LineOp) : lineOpOf (lineOpText op) = some op := by
  cases op <;> rfl

/-- A text without a `#` has no comment to take away. -/
theorem stripComment_of_notMem {cs : List Char} (h : '#' ∉ cs) : stripComment cs = cs := by
  induction cs with
  | nil => rfl
  | cons c cs ih =>
    obtain ⟨hc, hcs⟩ := not_or.mp (mt List.mem_cons.mpr h)
    rw [stripComment, if_neg (Ne.symm hc), ih hcs]

/-- What follows the first `#` is taken away. -/
theorem stripComment_append_comment {cs : List Char} (h : '#' ∉ cs) (comment : List Char) :
    stripComment (cs ++ '#' :: comment) = cs := by
  induction cs with
  | nil => rfl
  | cons c cs ih =>
    obtain ⟨hc, hcs⟩ := not_or.mp (mt List.mem_cons.mpr h)
    rw [List.cons_append, stripComment, if_neg (Ne.symm hc), ih hcs]

section
variable {isSep : Char → Bool} {w : List Char}

/-- A text without a separator is one piece. -/
theorem piecesBy_of_noSep (hw : ∀ c ∈ w, isSep c = false) : ∀ acc, piecesBy isSep acc w = [acc.reverse ++ w] := by
  induction w with
  | nil => intro acc; simp [piecesBy]
  | cons c w ih =>
    intro acc
    obtain ⟨hc, hw⟩ := List.forall_mem_cons.mp hw
    simp [piecesBy, hc, ih hw]

/-- The first separator ends the first piece. -/
theorem piecesBy_append_sep {sep : Char} (hsep : isSep sep = true) (hw : ∀ c ∈ w, isSep c = false) (cs : List Char) :
    ∀ acc, piecesBy isSep acc (w ++ sep :: cs) = (acc.reverse ++ w) :: piecesBy isSep [] cs := by
  induction w with
  | nil => intro acc; simp [piecesBy, hsep]
  | cons c w ih =>
    intro acc
    obtain ⟨hc, hw⟩ := List.forall_mem_cons.mp hw
    simp [piecesBy, hc, ih hw]

end

/-- Word characters do not separate words. -/
theorem not_blank_of_isWordChar {c : Char} (h : isWordChar c = true) : (c = ' ' || c = '\t' || c = '\r') = false := by
  simp [ne_of_isWordChar h (sep := ' ') rfl, ne_of_isWordChar h (sep := '\t') rfl,
    ne_of_isWordChar h (sep := '\r') rfl]

section
variable {w : List Char} (hw : ∀ c ∈ w, isWordChar c = true) (hne : w ≠ [])
include hw hne

/-- A word alone is the one word of its line. -/
theorem wordsOf_word : wordsOf w = [w] := by
  rw [wordsOf, piecesBy_of_noSep fun c hc => not_blank_of_isWordChar (hw c hc)]
  simpa using hne

/-- Two words with a blank between them are the two words of their line. -/
theorem wordsOf_two_words {w' : List Char} (hw' : ∀ c ∈ w', isWordChar c = true) (hne' : w' ≠ []) :
    wordsOf (w ++ ' ' :: w') = [w, w'] := by
  rw [wordsOf, piecesBy_append_sep rfl fun c hc => not_blank_of_isWordChar (hw c hc),
    piecesBy_of_noSep fun c hc => not_blank_of_isWordChar (hw' c hc)]
  simp [hne, hne']

end

/-! ### Lines and texts -/

/-- A comment is not read (30_encoding.md R72). -/
theorem readLine_append_comment {cs : List Char} (h : '#' ∉ cs) (comment : List Char) :
    readLine (cs ++ '#' :: comment) = readLine cs := by
  rw [readLine, readLine, stripComment_append_comment h, stripComment_of_notMem h]

/-- A mnemonic alone on its line is read as its operation, once (30_encoding.md R72). -/
theorem readLine_lineOpText (op : LineOp) : readLine (lineOpText op) = .ok (some ⟨op, 1⟩) := by
  have hw := isWordChar_lineOpText op
  have hcomment : '#' ∉ lineOpText op := fun h => absurd (hw _ h) (by decide)
  simp [readLine, stripComment_of_notMem hcomment, wordsOf_word hw (lineOpText_ne_nil op), lineOpOf_lineOpText]

/-- The text of a line is its two words. -/
theorem lineText_eq (l : InputLine) : lineText l = lineOpText l.op ++ ' ' :: '*' :: decimalText l.count := by
  simp [lineText]

/-- The text of a line holds word characters and blanks only. -/
theorem mem_lineText {l : InputLine} {c : Char} (h : c ∈ lineText l) : isWordChar c = true ∨ c = ' ' := by
  rw [lineText_eq, List.mem_append, List.mem_cons] at h
  rcases h with h | h | h
  · exact .inl (isWordChar_lineOpText _ _ h)
  · exact .inr h
  · exact .inl (isWordChar_countText _ _ h)

/-- The written line is read as far as its count allows (30_encoding.md R72). -/
theorem readLine_lineText (l : InputLine) :
    readLine (lineText l) =
      if l.wellFormed then .ok (some l) else .error (.badCount ('*' :: decimalText l.count)) := by
  have hcomment : '#' ∉ lineText l := fun h => (mem_lineText h).elim (by decide) (by decide)
  have hwords : wordsOf (lineText l) = [lineOpText l.op, '*' :: decimalText l.count] := by
    rw [lineText_eq]
    exact wordsOf_two_words (isWordChar_lineOpText _) (lineOpText_ne_nil _) (isWordChar_countText _)
      (List.cons_ne_nil _ _)
  simp only [readLine, stripComment_of_notMem hcomment, hwords, lineOpOf_lineOpText, lineWithCount,
    countOf_decimalText]
  cases l.wellFormed <;> rfl

/-- The lines of the text written for input lines; the text after the last line feed is empty. -/
theorem piecesBy_inputText (ls : List InputLine) :
    piecesBy (fun c => c = '\n') [] (inputText ls) = ls.map lineText ++ [[]] := by
  induction ls with
  | nil => rfl
  | cons l ls ih =>
    have hline (c : Char) (hc : c ∈ lineText l) : decide (c = '\n') = false := by
      rcases mem_lineText hc with hc | rfl
      · exact decide_eq_false (ne_of_isWordChar hc rfl)
      · rfl
    rw [inputText, piecesBy_append_sep rfl hline, ih]
    rfl

/-- Written lines with counts of at least 1 are all read. -/
theorem readLines_lineTexts {ls : List InputLine} (h : ∀ l ∈ ls, l.wellFormed = true) :
    readLines (ls.map lineText ++ [[]]) = .ok ls := by
  induction ls with
  | nil => rfl
  | cons l ls ih =>
    obtain ⟨hl, hls⟩ := List.forall_mem_cons.mp h
    have hread : readLine (lineText l) = .ok (some l) := by rw [readLine_lineText, if_pos hl]
    simp [readLines, hread, ih hls]

/-- The text written for input lines reads back as their vectors (30_encoding.md R72). -/
theorem readInput_inputText {ls : List InputLine} (h : ∀ l ∈ ls, l.wellFormed = true) :
    readInput (inputText ls) = .ok (ls.flatMap lineVectors) := by
  rw [readInput, piecesBy_inputText, readLines_lineTexts h, List.flatMap_def]
  rfl

/-! ### The obligation -/

/-- Settles O4: a line is its words, a word reads back, and a text is its lines. -/
theorem inputTextReadsBack : Obligations.InputTextReadsBack := by
  refine ⟨⟨rfl, rfl, rfl, rfl⟩, ?bare, ⟨rfl, rfl, rfl, rfl⟩, ?copies, fun _ _ => rfl, ?zero,
    fun cs comment h => readLine_append_comment h comment, fun ls h => readInput_inputText h⟩
  case bare =>
    exact ⟨readLine_lineOpText .nop, readLine_lineOpText .tick, readLine_lineOpText .reset, readLine_lineOpText .resetT⟩
  case copies =>
    exact fun n => ⟨lineVectors_singleton rfl n, lineVectors_singleton rfl n, lineVectors_singleton rfl n,
      lineVectors_singleton rfl n⟩
  case zero => exact fun op => readLine_lineText ⟨op, 0⟩

end Sys2Proof.Machine
end

section
/-! PROOFS. The sine ROM's configuration check and SINE (40_sine_lut.md): the quarter wave rises from 0 to 127, and SINE
unfolds it about the midpoint by the folds of R83. -/

namespace Sys2Proof.Machine

/-! ### The check of a table (R81) -/

/-- Bytes of at most 127 give an empty report; `le_of_firstAbove_none` is the other direction. -/
theorem firstAbove_eq_none_of_le {T : List U8} (h : ∀ b ∈ T, b.toNat ≤ 127) : ∀ p, firstAbove p T = none := by
  induction T with
  | nil => exact fun _ => rfl
  | cons b T ih =>
    obtain ⟨hb, hT⟩ := List.forall_mem_cons.mp h
    intro p
    rw [firstAbove, if_neg (Nat.not_lt.mpr hb), ih hT]

/-- Neighbours that never fall give an empty report; `le_succ_of_firstDrop_none` is the other direction. -/
theorem firstDrop_eq_none_of_le_succ {T : List U8}
    (h : ∀ (i : Nat) (b c : U8), T[i]? = some b → T[i + 1]? = some c → b.toNat ≤ c.toNat) :
    ∀ p, firstDrop p T = none := by
  induction T with
  | nil => exact fun _ => rfl
  | cons b T ih =>
    cases T with
    | nil => exact fun _ => rfl
    | cons c T =>
      intro p
      have hbc : b.toNat ≤ c.toNat := h 0 b c rfl rfl
      rw [firstDrop, if_neg (Nat.not_lt.mpr hbc), ih fun i => h (i + 1)]

/-- The check finds no defect exactly when the four items of R81 hold. -/
theorem tableDefect_eq_none_iff (T : List U8) :
    tableDefect T = none ↔
      T.length = 32 ∧ (∀ b ∈ T, b.toNat ≤ 127) ∧ T[0]? = some 0 ∧
        ∀ (i : Nat) (b c : U8), T[i]? = some b → T[i + 1]? = some c → b.toNat ≤ c.toNat := by
  constructor
  · intro h
    obtain ⟨hlen, hrange, hzero, hrise⟩ := tableDefect_none h
    refine ⟨hlen, hrange, List.head?_eq_getElem? ▸ hzero, fun i b c hb hc => ?_⟩
    obtain ⟨hi, rfl⟩ := List.getElem?_eq_some_iff.mp hb
    obtain ⟨hi', rfl⟩ := List.getElem?_eq_some_iff.mp hc
    exact hrise i hi'
  · rintro ⟨hlen, hrange, hzero, hrise⟩
    rw [← List.head?_eq_getElem?] at hzero
    simp [tableDefect, hlen, hzero, firstAbove_eq_none_of_le hrange, firstDrop_eq_none_of_le_succ hrise]

/-- Everything a power-on can do: the power-on state with a ROM of exactly these bytes, or BAD_TABLE with their defect
(60_exceptions.md R184). -/
theorem powerOn_cases (n : Nat) (T : List U8) :
    (tableDefect T = none ∧ ∃ rom, powerOn n T = .next (powerOnState n rom) ∧ rom.cells.bytes = T) ∨
      ∃ d, tableDefect T = some d ∧ powerOn n T = .refused (.badTable d) := by
  rcases loadTable_cases T with ⟨hok, rom, hload, hbytes⟩ | ⟨d, hbad, hload⟩
  · exact .inl ⟨hok, rom, by rw [powerOn, hload], hbytes⟩
  · exact .inr ⟨d, hbad, by rw [powerOn, hload]⟩

/-! ### The quarter wave rises from 0 to the peak -/

/-- The quarter wave starts at 0 (R81, item 3). -/
@[simp] theorem quarterAt_zero (rom : SineRom) : quarterAt rom 0 = 0 := by
  simp [quarterAt, entry, rom_read_zero]

/-- Inside the ROM the quarter-wave value is the table's byte. -/
theorem quarterAt_of_lt (rom : SineRom) {i : Nat} (h : i < 32) :
    ∃ hi : i < rom.cells.bytes.length, quarterAt rom i = rom.cells.bytes[i].toNat := by
  obtain ⟨hlen, -, -, -⟩ := tableDefect_none (rom_table_ok rom)
  have hi : i < rom.cells.bytes.length := hlen ▸ h
  exact ⟨hi, by simp [quarterAt, h, entry, rom_read_eq, hi]⟩

/-- The peak stands for every position past the ROM (R84). -/
theorem quarterAt_of_ge (rom : SineRom) {i : Nat} (h : 32 ≤ i) : quarterAt rom i = 127 :=
  if_neg (Nat.not_lt.mpr h)

/-- The quarter wave never falls: inside the ROM by item 4 of R81, into the peak by item 2. -/
theorem quarterAt_monotone (rom : SineRom) : Monotone (quarterAt rom) := by
  obtain ⟨-, hrange, -, hrise⟩ := tableDefect_none (rom_table_ok rom)
  refine monotone_nat_of_le_succ fun i => ?_
  by_cases hi : i < 32
  · obtain ⟨hlt, hvalue⟩ := quarterAt_of_lt rom hi
    by_cases hi' : i + 1 < 32
    · obtain ⟨hlt', hvalue'⟩ := quarterAt_of_lt rom hi'
      rw [hvalue, hvalue']
      exact hrise i hlt'
    · rw [hvalue, quarterAt_of_ge rom (Nat.not_lt.mp hi')]
      exact hrange _ (List.getElem_mem hlt)
  · rw [quarterAt_of_ge rom (Nat.not_lt.mp hi), quarterAt_of_ge rom (by omega)]

/-- A quarter-wave value of 0 was read from the ROM, since the peak is 127. -/
theorem romRead_of_quarter_zero {rom : SineRom} {idx : U6} {q : U7} (h : quarter rom idx = .ok q) (hq : q.toNat = 0) :
    romRead rom idx = .ok 0 := by
  rcases quarter_cases rom idx with ⟨-, b, q', hread, hq', hb⟩ | ⟨-, hpeak⟩
  · obtain rfl : q = q' := by simpa [h] using hq'
    have hzero : b = 0 := BitVec.eq_of_toNat_eq (hb.symm.trans hq)
    rw [romRead, hread, hzero]
  · obtain rfl : q = 127 := by simpa [h] using hpeak
    exact absurd hq (by decide)

/-! ### SINE about the midpoint -/

/-- SINE lies above the midpoint up to angle 64 and below it from there on, by the quarter-wave value at the fold index. At
0 and 64 both hold, that value being 0. -/
theorem sine_eq_ok (rom : SineRom) (a : U7) :
    ∃ q v, quarter rom (foldIndex a) = .ok q ∧ sine rom a = .ok v ∧ q.toNat = quarterAt rom (foldIndex a).toNat ∧
      (a.toNat ≤ 64 → v.toNat = 127 + q.toNat) ∧ (a.toNat = 0 ∨ 64 ≤ a.toNat → v.toNat + q.toNat = 127) := by
  obtain ⟨q, hq, hsine⟩ := sine_cases rom a
  obtain ⟨q', hq', hvalue⟩ := quarter_eq_quarterAt rom (foldIndex a)
  obtain rfl : q = q' := by simpa [hq] using hq'
  have hle := q.isLt
  have hmid : a.toNat = 0 ∨ a.toNat = 64 → q.toNat = 0 := by
    intro h
    have hfold : (foldIndex a).toNat = 0 := by
      rw [foldIndex_toNat]
      split_ifs <;> omega
    rw [hvalue, hfold, quarterAt_zero]
  refine ⟨q, _, hq, hsine, hvalue, ?_, ?_⟩ <;>
  · intro h
    simp only [sampleOf_toNat, foldPositive_eq, decide_eq_true_eq]
    split_ifs <;> omega

/-- SINE at angle 32 is the peak above the midpoint, answered without the ROM (R86). -/
theorem sine_peak (rom : SineRom) : sine rom 32 = .ok 254 := rfl

/-! ### The symmetries of the fold -/

/-- A quarter-wave reflection keeps the fold index. -/
theorem foldIndex_reflect (a : U7) : foldIndex (64 - a) = foldIndex a := by
  apply BitVec.eq_of_toNat_eq
  have := a.isLt
  have hsub : (64 - a).toNat = (128 - a.toNat + 64) % 128 := BitVec.toNat_sub 64 a
  rw [foldIndex_toNat, foldIndex_toNat]
  split_ifs <;> omega

/-- It keeps the sign as well. -/
theorem foldPositive_reflect (a : U7) : foldPositive (64 - a) = foldPositive a := by
  have := a.isLt
  have hsub : (64 - a).toNat = (128 - a.toNat + 64) % 128 := BitVec.toNat_sub 64 a
  rw [foldPositive_eq, foldPositive_eq, decide_eq_decide]
  omega

/-- SINE is symmetric about angle 32, and so, the angles being taken modulo 128, about angle 96 (R89). -/
theorem sine_reflect (rom : SineRom) (a : U7) : sine rom (64 - a) = sine rom a := by
  rw [sine, sine, foldIndex_reflect, foldPositive_reflect]

/-- Half a cycle keeps the fold index. -/
theorem foldIndex_add_half (a : U7) : foldIndex (a + 64) = foldIndex a := by
  apply BitVec.eq_of_toNat_eq
  have := a.isLt
  have hadd : (a + 64).toNat = (a.toNat + 64) % 128 := BitVec.toNat_add a 64
  rw [foldIndex_toNat, foldIndex_toNat]
  split_ifs <;> omega

/-! ### The aligned-quadrant form (R87) -/

/-- `a[4:0]` as a number. -/
theorem alignedOffset_eq (a : U7) : alignedOffset a = a.toNat % 32 := by
  simp [alignedOffset]

/-- `qd[i]` is bit `5 + i` of the angle. -/
theorem alignedQuadrant_bit (a : U7) {i : Nat} (h : i < 2) :
    (alignedQuadrant a).getLsbD i = decide (a.toNat / 2 ^ (5 + i) % 2 = 1) := by
  rw [alignedQuadrant, BitVec.getLsbD_extractLsb', decide_eq_true h, Bool.true_and, BitVec.getLsbD,
    Nat.testBit_eq_decide_div_mod_eq]

/-- `qd[0]` is set in the quadrants from 32 and from 96. -/
theorem alignedQuadrant_bit0 (a : U7) : (alignedQuadrant a).getLsbD 0 = decide (a.toNat / 32 % 2 = 1) :=
  alignedQuadrant_bit a (by decide)

/-- `qd[1]` is set from angle 64 on. -/
theorem alignedQuadrant_bit1 (a : U7) : (alignedQuadrant a).getLsbD 1 = decide (64 ≤ a.toNat) := by
  have := a.isLt
  rw [alignedQuadrant_bit a (by decide), decide_eq_decide]
  omega

/-- The aligned quadrants fold to the index of the bands, at the shared boundaries too. -/
theorem alignedIndex_eq_foldIndex (a : U7) :
    trunc 6 (if (alignedQuadrant a).getLsbD 0 then 32 - alignedOffset a else alignedOffset a) = foldIndex a := by
  apply BitVec.eq_of_toNat_eq
  have := a.isLt
  rw [alignedQuadrant_bit0, alignedOffset_eq, foldIndex_toNat, BitVec.toNat_ofNat]
  simp only [decide_eq_true_eq]
  split_ifs <;> omega

/-- SINE_ALIGNED as its two parts: it differs from SINE (`sine_cases`) in the sign at angle 64 only. -/
theorem sineAligned_cases (rom : SineRom) (a : U7) :
    ∃ q, quarter rom (foldIndex a) = .ok q ∧ sineAligned rom a = .ok (sampleOf (decide (a.toNat < 64)) q) := by
  obtain ⟨q, hq⟩ := quarter_ok rom (foldIndex a)
  refine ⟨q, hq, ?_⟩
  simp only [sineAligned, alignedIndex_eq_foldIndex, hq, alignedQuadrant_bit1, ← decide_not, Nat.not_le]

/-! ### The obligations -/

/-- Settles O35: the two answers of a power-on are told apart by the check, which is R81's four items. -/
theorem tableAcceptedExactlyWhenWellFormed : Obligations.TableAcceptedExactlyWhenWellFormed := by
  intro n T
  rw [← tableDefect_eq_none_iff]
  rcases powerOn_cases n T with ⟨hok, haccepted⟩ | ⟨d, hbad, hrefused⟩
  · exact ⟨iff_of_true haccepted hok, .inl haccepted⟩
  · exact ⟨iff_of_false (by simp [hrefused]) (by simp [hbad]), .inr ⟨d, hrefused⟩⟩

/-- Settles O40: the sample is the midpoint plus or minus a quarter-wave value of at most 127. -/
theorem sineStaysInRange : Obligations.SineStaysInRange := by
  intro rom a
  obtain ⟨q, v, hq, hsine, -, habove, hbelow⟩ := sine_eq_ok rom a
  have hle := q.isLt
  refine ⟨q, v, hq, hsine, by omega, by omega, by omega, by omega, by omega, fun hmid _ _ => ?_⟩
  exact romRead_of_quarter_zero hq (by omega)

/-- Settles O41: within a quarter the fold index moves one way and the quarter wave rises with it; 32..96 is cut at 64, where
SINE crosses the midpoint. -/
theorem sineIsMonotoneByQuarters : Obligations.SineIsMonotoneByQuarters := by
  refine fun rom => ⟨sine_zero rom, sine_peak rom, fun a b hab => ?_⟩
  obtain ⟨q, v, -, hv, hq, habove, hbelow⟩ := sine_eq_ok rom a
  obtain ⟨r, w, -, hw, hr, habove', hbelow'⟩ := sine_eq_ok rom b
  have hup : (foldIndex a).toNat ≤ (foldIndex b).toNat → q.toNat ≤ r.toNat :=
    fun h => hq ▸ hr ▸ quarterAt_monotone rom h
  have hdown : (foldIndex b).toNat ≤ (foldIndex a).toNat → r.toNat ≤ q.toNat :=
    fun h => hq ▸ hr ▸ quarterAt_monotone rom h
  have hlt := b.isLt
  rw [foldIndex_toNat, foldIndex_toNat] at hup hdown
  refine ⟨v, w, hv, hw, fun hb => ?first, fun ha hb => ?middle, fun ha => ?last⟩
  case first =>
    split_ifs at hup <;> omega
  case middle =>
    rcases Nat.le_total b.toNat 64 with hb64 | hb64
    · split_ifs at hdown <;> omega
    · rcases Nat.le_total a.toNat 64 with ha64 | ha64
      · omega
      · split_ifs at hup <;> omega
  case last =>
    split_ifs at hdown <;> omega

/-- Settles O42: the two forms differ in the sign at angle 64 only, where both samples are the midpoint. -/
theorem alignedFormEqualsSine : Obligations.AlignedFormEqualsSine := by
  intro rom a
  obtain ⟨q, hq, haligned⟩ := sineAligned_cases rom a
  obtain ⟨q', v, hq', hsine, -, habove, hbelow⟩ := sine_eq_ok rom a
  obtain rfl : q = q' := by simpa [hq] using hq'
  rw [haligned, hsine]
  congr 1
  apply BitVec.eq_of_toNat_eq
  rw [sampleOf_toNat]
  simp only [decide_eq_true_eq]
  split_ifs <;> omega

/-- Settles O43: half a cycle on, the same quarter-wave value lies on the other side of the midpoint. -/
theorem halfCycleInversion : Obligations.HalfCycleInversion := by
  intro rom a
  obtain ⟨q, v, hq, hv, -, habove, hbelow⟩ := sine_eq_ok rom a
  obtain ⟨r, w, hr, hw, -, habove', hbelow'⟩ := sine_eq_ok rom (a + 64)
  rw [foldIndex_add_half, hq] at hr
  obtain rfl : q = r := by simpa using hr
  have hlt := a.isLt
  have hadd : (a + 64).toNat = (a.toNat + 64) % 128 := BitVec.toNat_add a 64
  exact ⟨v, w, hv, hw, by omega⟩

/-- Settles O44: both equations are the one reflection, taken modulo 128. -/
theorem quarterSymmetry : Obligations.QuarterSymmetry := by
  intro rom n
  refine ⟨fun hn => ?first, fun _ hn => ?second⟩
  case first =>
    obtain ⟨-, v, -, hv, -⟩ := sine_eq_ok rom (trunc 7 n)
    have hreflect : trunc 7 (64 - n) = 64 - trunc 7 n := by bv_omega
    exact ⟨v, hv, by rw [hreflect, sine_reflect, hv]⟩
  case second =>
    obtain ⟨-, v, -, hv, -⟩ := sine_eq_ok rom (trunc 7 (64 + n))
    have hreflect : trunc 7 (128 - n) = 64 - trunc 7 (64 + n) := by bv_omega
    exact ⟨v, hv, by rw [hreflect, sine_reflect, hv]⟩

end Sys2Proof.Machine
end

section
/-! PROOFS. The phase clock of spec/41_phase_clock.md: ADVANCE, and the counting of raw ticks over runs with NOPs anywhere. -/

namespace Sys2Proof.Machine

/-! ### Runs that are read -/

/-- A run that is read adds one reading per vector, once the state is known (10_state.md R28). -/
theorem runVectors_read_length {vs : List U2} {s t : State} {os : List Outputs} (hk : s.known = true)
    (ht : runVectors true vs s = .next t) (hos : t.readings = s.readings ++ os) : os.length = vs.length := by
  obtain ⟨t', -, os', ht', -, hos', -, hlength, -⟩ := readAlike_of_sameHardware vs s s hk ⟨rfl, rfl, rfl⟩
  obtain rfl : t' = t := by simpa [ht'] using ht
  obtain rfl : os' = os := List.append_cancel_left (hos'.symm.trans hos)
  exact hlength

/-- A run whose first vectors `us` hold no reset goes on from a known state whose scaler has counted their raw ticks
modulo 4 (41_phase_clock.md R104). -/
theorem runVectors_read_append (us vs : List U2) : ∀ {s : State}, s.known = true → noReset us →
    ∃ x, x.known = true ∧ x.scaler.toNat = (s.scaler.toNat + tickCount us) % 4 ∧
      runVectors true (us ++ vs) s = runVectors true vs x := by
  induction us with
  | nil =>
    intro s hk _
    exact ⟨s, hk, (Nat.mod_eq_of_lt s.scaler.isLt).symm, rfl⟩
  | cons v us ih =>
    intro s hk hr
    obtain ⟨hv, hus⟩ := (noReset_cons v us).mp hr
    obtain ⟨u, hu⟩ := edge_total (decode v) (atFirstEdge true (v :: (us ++ vs)) s)
    have hku : u.known = true := hu.known hk
    have hscaler : u.scaler.toNat = (s.scaler.toNat + if decode v = .tick then 1 else 0) % 4 :=
      hu.scaler_toNat hk (decode_ne_reset hv)
    obtain ⟨x, hx, hcount, hrun⟩ := ih (s := { u with readings := u.readings ++ [outputs u] }) hku hus
    dsimp only at hcount
    rw [tickCount_cons]
    exact ⟨x, hx, by omega, by rw [List.cons_append, runVectors_read_cons hu hku, hrun]⟩

/-- A run that starts with RESET goes on from a known state at angle 0 with an empty scaler
(70_reset_and_hazards.md R200). -/
theorem runVectors_read_reset_cons (b : U1) (vs : List U2) (s : State) :
    ∃ r, r.known = true ∧ r.phase = 0 ∧ r.scaler = 0 ∧ runVectors true (ctrl 1 b :: vs) s = runVectors true vs r :=
  ⟨_, rfl, rfl, rfl, runVectors_read_cons (edge_ctrl_one b _) rfl⟩

/-! ### Raw ticks (R104) -/

/-- A TICK at the last count is the edge that raises the strobe (41_phase_clock.md R100). -/
theorem runVectors_read_tick_lastCount {s : State} (hk : s.known = true) (hc : s.scaler = 3) :
    ∃ t, runVectors true [0b01#2] s = .next t ∧ t.upd = 1 := by
  obtain ⟨u, hu⟩ := edge_total (decode 0b01#2) (atFirstEdge true [0b01#2] s)
  have hupd : u.upd = updOf (decide (decode 0b01#2 = .tick) && atLastCount s.scaler) := hu.upd_eq hk
  exact ⟨_, runVectors_read_cons hu (hu.known hk), by rw [withScript_upd, hupd, hc]; rfl⟩

/-- The laws of R104 from a known state: the scaler and the raw ticks, divided by 4, give the advances, which move the
phase, and leave the scaler as remainder. -/
theorem runVectors_read_ticks_counted (vs : List U2) {s : State} (hk : s.known = true) (hr : noReset vs) :
    ∃ t os, runVectors true vs s = .next t ∧ t.readings = s.readings ++ os ∧ os.length = vs.length ∧
      t.scaler.toNat = (s.scaler.toNat + tickCount vs) % 4 ∧
      t.phase.toNat = (s.phase.toNat + (s.scaler.toNat + tickCount vs) / 4) % 128 ∧
      eventCount os = (s.scaler.toNat + tickCount vs) / 4 := by
  obtain ⟨t, os, ht, hos, hticks, hphase⟩ := runVectors_read_counts vs hk hr
  have hlt := t.scaler.isLt
  have hevents : eventCount os = (s.scaler.toNat + tickCount vs) / 4 := by omega
  exact ⟨t, os, ht, hos, runVectors_read_length hk ht hos, by omega, hevents ▸ hphase, hevents⟩

/-! ### The obligations -/

/-- Settles O24: the exact numbers of ticks are instances of the quotient and the remainder by 4; the fourth tick from
scaler 0 finds the last count; and RESET starts both counts at 0. -/
theorem rawTicksAreCounted : Obligations.RawTicksAreCounted := by
  refine ⟨fun s vs hk hr => ?laws, fun s us hk hzero hr hthree => ?fourth, fun s b vs hr => ?afterReset⟩
  case laws =>
    obtain ⟨t, os, ht, hos, hlength, hscaler, hphase, hevents⟩ := runVectors_read_ticks_counted vs hk hr
    have hlt := s.scaler.isLt
    have hlt' := s.phase.isLt
    refine ⟨t, os, ht, hos, hlength, hscaler, hphase, hevents, fun hfour => ?_, fun hzero hle => ?_, fun hfull => ?_⟩
    · exact ⟨by omega, BitVec.eq_of_toNat_eq (by omega)⟩
    · have hnone : s.scaler.toNat = 0 := by simp [hzero]
      omega
    · exact ⟨by omega, BitVec.eq_of_toNat_eq (by omega), BitVec.eq_of_toNat_eq (by omega)⟩
  case fourth =>
    obtain ⟨x, hx, hcount, hrun⟩ := runVectors_read_append us [0b01#2] hk hr
    have hlast : x.scaler = 3 := BitVec.eq_of_toNat_eq (by simp [hcount, hzero, hthree])
    rw [hrun]
    exact runVectors_read_tick_lastCount hx hlast
  case afterReset =>
    obtain ⟨r, hk, hphase₀, hscaler₀, hrun⟩ := runVectors_read_reset_cons b vs s
    obtain ⟨t, -, ht, -, -, hscaler, hphase, -⟩ := runVectors_read_ticks_counted vs hk hr
    exact ⟨t, hrun.trans ht, by simpa [hphase₀, hscaler₀] using hphase, by simpa [hscaler₀] using hscaler⟩

/-- Settles O37, by the two cases of ADVANCE. -/
theorem advanceFollowsItsRule : Obligations.AdvanceFollowsItsRule := by
  intro p c
  rcases advance_cases p c with ⟨h3, ha⟩ | ⟨hne, ha, hsucc⟩
  · rw [ha, h3]
    exact ⟨fun _ => ⟨BitVec.toNat_add p 1, rfl, rfl⟩, fun hlow => absurd rfl hlow⟩
  · rw [ha]
    exact ⟨fun h3 => absurd (BitVec.eq_of_toNat_eq h3) hne, fun _ => ⟨rfl, hsucc, rfl⟩⟩

end Sys2Proof.Machine
end

section
/-! PROOFS. The splitter of spec/42_splitter.md: SPLIT, SCALE and DRIVE on the samples 0..254. -/

namespace Sys2Proof.Machine

/-! ### SCALE -/

/-- The drive level of a duty value is its half (30_encoding.md R70). -/
theorem levelOfDuty_toNat (d : U8) : (levelOfDuty d).toNat = d.toNat / 2 := by
  have hlt := d.isLt
  have hfits : d.toNat / 2 < 128 := by omega
  simp [levelOfDuty, Nat.shiftRight_eq_div_pow, Nat.mod_eq_of_lt hfits]

/-- The level is read back from bits 7..1 of its SCALE (42_splitter.md R121). -/
theorem levelOfDuty_scale (l : U7) : levelOfDuty (scale l) = l :=
  BitVec.eq_of_toNat_eq (by rw [levelOfDuty_toNat, scale_toNat, Nat.mul_div_cancel_left _ Nat.two_pos])

/-- Two levels with one SCALE are equal, as the level is read back (42_splitter.md R121). -/
theorem scale_injective : Function.Injective scale :=
  Function.LeftInverse.injective levelOfDuty_scale

/-- Bit 0 of SCALE is clear, as the duty value is even (42_splitter.md R121). -/
theorem scale_getLsbD_zero (l : U7) : (scale l).getLsbD 0 = false := by
  simp [BitVec.getLsbD, scale_toNat]

/-! ### SPLIT and DRIVE -/

/-- SPLIT answers for every sample 0..254 (42_splitter.md R120). -/
theorem split_eq_ok {s : U8} (hs : s.toNat ≤ 254) : ∃ p, split s = .ok p := by
  rcases split_cases s with ⟨-, p, hp, -⟩ | ⟨h255, -⟩
  · exact ⟨p, hp⟩
  · omega

/-- The levels that SPLIT answers are the two distances from the midpoint, cut off at 0 (42_splitter.md R120). -/
theorem split_levels {s : U8} {p : DrivePair} (h : split s = .ok p) :
    p.pos.toNat = s.toNat - 127 ∧ p.neg.toNat = 127 - s.toNat := by
  rcases split_cases s with ⟨-, q, hq, hlevels⟩ | ⟨-, herr⟩
  · obtain rfl : q = p := by simpa [hq] using h
    exact hlevels
  · simp [herr] at h

/-- DRIVE is SCALE of both levels that SPLIT answers (42_splitter.md R122). -/
theorem drive_eq_scale_split {s : U8} {p : DrivePair} (h : split s = .ok p) :
    drive s = .ok ⟨scale p.pos, scale p.neg⟩ := by
  simp [drive, h]

/-- SPLIT of the sample mirrored about the midpoint has the two levels exchanged (42_splitter.md R123). -/
theorem split_mirror {s : U8} {p : DrivePair} (hs : s.toNat ≤ 254) (h : split s = .ok p) :
    ∃ m, split (254 - s) = .ok m ∧ m.pos = p.neg ∧ m.neg = p.pos := by
  have hmirror : (254 - s).toNat = 254 - s.toNat := BitVec.toNat_sub_of_le hs
  obtain ⟨m, hm⟩ := split_eq_ok (s := 254 - s) (by omega)
  obtain ⟨hpos, hneg⟩ := split_levels h
  obtain ⟨hmpos, hmneg⟩ := split_levels hm
  exact ⟨m, hm, BitVec.eq_of_toNat_eq (by omega), BitVec.eq_of_toNat_eq (by omega)⟩

/-- At least one level is zero (42_splitter.md R123). -/
theorem split_level_zero {s : U8} {p : DrivePair} (h : split s = .ok p) : p.pos = 0 ∨ p.neg = 0 := by
  obtain ⟨hpos, hneg⟩ := split_levels h
  rcases Nat.le_total s.toNat 127 with hle | hge
  · exact .inl (BitVec.eq_of_toNat_eq (hpos.trans (Nat.sub_eq_zero_of_le hle)))
  · exact .inr (BitVec.eq_of_toNat_eq (hneg.trans (Nat.sub_eq_zero_of_le hge)))

/-- Both levels are zero exactly at the midpoint (42_splitter.md R123). -/
theorem split_levels_zero_iff {s : U8} {p : DrivePair} (h : split s = .ok p) :
    p.pos = 0 ∧ p.neg = 0 ↔ s = 127 := by
  obtain ⟨hpos, hneg⟩ := split_levels h
  have hmid : (127 : U8).toNat = 127 := rfl
  have hzero : (0 : U7).toNat = 0 := rfl
  rw [← BitVec.toNat_inj, ← BitVec.toNat_inj, ← BitVec.toNat_inj, hpos, hneg, hmid, hzero]
  omega

/-! ### The obligations -/

/-- Settles O45: the levels are the two distances of the sample from the midpoint, cut off at 0. -/
theorem splitLaws : Obligations.SplitLaws := by
  intro s hs
  obtain ⟨p, hp⟩ := split_eq_ok hs
  obtain ⟨m, hm, hmpos, hmneg⟩ := split_mirror hs hp
  obtain ⟨hpos, hneg⟩ := split_levels hp
  have hmid := split_levels_zero_iff hp
  exact ⟨p, m, _, hp, hm, drive_eq_scale_split hp, split_level_zero hp, hmid.mpr, mt hmid.mp, by omega, by omega,
    hmpos, hmneg, scale_toNat _, scale_toNat _⟩

/-- Settles O46: DRIVE scales both levels, and a distance cut off at 0 is a maximum with 0. -/
theorem driveWrittenOut : Obligations.DriveWrittenOut := by
  intro s hs
  obtain ⟨p, hp⟩ := split_eq_ok hs
  obtain ⟨hpos, hneg⟩ := split_levels hp
  refine ⟨p, _, hp, drive_eq_scale_split hp, rfl, rfl, ?_, ?_⟩
  · rw [scale_toNat, hpos]
    omega
  · rw [scale_toNat, hneg]
    omega

/-- Settles O47: the duty value is twice the level, from which the level is read back. -/
theorem scaleDoublesTheLevel : Obligations.ScaleDoublesTheLevel := by
  intro l m
  have hdouble := scale_toNat l
  have hlt := l.isLt
  exact ⟨hdouble, by omega, levelOfDuty_scale l, scale_getLsbD_zero l, fun h => scale_injective h⟩

end Sys2Proof.Machine
end

section
/-! PROOFS. The PWM writer of spec/43_pwm_writer.md: PROGRAM, and the programming events of a run: which angles they are for
and which duties they show. -/

namespace Sys2Proof.Machine

/-! ### Runs that are read -/

/-- Induction over a run that is read, from a known state and without a reset: `P` relates the state before, the outputs
read and the state after, and each edge with its reading is put before the rest of the run. -/
theorem runVectors_read_induction {P : State → List Outputs → State → Prop}
    (script : ∀ s, P s [] (withScript [] s))
    (edge : ∀ v vs s u os t, s.known = true → resets v = false → Edge (decode v) (atFirstEdge true (v :: vs) s) u →
      P { u with readings := u.readings ++ [outputs u] } os t → P s (outputs u :: os) t)
    (vs : List U2) : ∀ {s t : State} {os : List Outputs}, s.known = true → noReset vs →
      runVectors true vs s = .next t → t.readings = s.readings ++ os → P s os t := by
  induction vs with
  | nil =>
    intro s t os _ _ ht hos
    obtain rfl : withScript [] s = t := by simpa using ht
    obtain rfl : os = [] := by simpa using hos
    exact script s
  | cons v vs ih =>
    intro s t os hk hr ht hos
    obtain ⟨hv, hvs⟩ := (noReset_cons v vs).mp hr
    obtain ⟨u, hu⟩ := edge_total (decode v) (atFirstEdge true (v :: vs) s)
    have hku : u.known = true := hu.known hk
    obtain ⟨-, -, -, hreadings⟩ := hu.frame
    rw [runVectors_read_cons hu hku] at ht
    obtain ⟨t', os', ht', hos', -⟩ := runVectors_read_counts vs (s := { u with readings := u.readings ++ [outputs u] })
      hku hvs
    obtain rfl : t' = t := by simpa [ht'] using ht
    obtain rfl : os = outputs u :: os' := by simpa [hos', hreadings] using hos.symm
    exact edge v vs s u os' t' hk hv hu (ih hku hvs ht' hos')

/-! ### The angles programmed -/

/-- The number of events that program the angle `p` in a sequence of readings (43_pwm_writer.md R145). -/
def eventsAt (p : U7) (os : List Outputs) : Nat := os.countP fun o => decide (o.updO = 1 ∧ o.phaseO = p)

@[simp] theorem eventsAt_nil (p : U7) : eventsAt p [] = 0 := rfl

/-- Each reading of the angle with the strobe high counts once. -/
theorem eventsAt_cons (p : U7) (o : Outputs) (os : List Outputs) :
    eventsAt p (o :: os) = eventsAt p os + if o.updO = 1 ∧ o.phaseO = p then 1 else 0 := by
  simp [eventsAt, List.countP_cons]

/-- The angle moves on from `p` by 1 with each strobe, and the strobe at which it comes round is the event at `p`. -/
theorem Edge.angle_counts {i : Instr} {s t : State} (h : Edge i s t) (hk : s.known = true) (hr : ∀ b, i ≠ .reset b)
    (p : U7) :
    128 * (if t.upd = 1 ∧ t.phase = p then 1 else 0) + (t.phase - p).toNat = (s.phase - p).toNat + t.upd.toNat := by
  obtain ⟨-, hphase⟩ := h.counts hk hr
  have hone : t.upd = 1 ↔ t.upd.toNat = 1 := BitVec.toNat_inj.symm
  have hhere : t.phase = p ↔ t.phase.toNat = p.toNat := BitVec.toNat_inj.symm
  have hupd := t.upd.isLt
  have hp := p.isLt
  have hs := s.phase.isLt
  simp only [hone, hhere, BitVec.toNat_sub]
  split_ifs <;> omega

/-- Without a reset the events at `p` are the times that the angle, moved on by all events, comes round to `p`. -/
theorem runVectors_read_eventsAt (p : U7) {vs : List U2} {s t : State} {os : List Outputs} (hk : s.known = true)
    (hr : noReset vs) (ht : runVectors true vs s = .next t) (hos : t.readings = s.readings ++ os) :
    128 * eventsAt p os + (t.phase - p).toNat = (s.phase - p).toNat + eventCount os := by
  refine runVectors_read_induction
    (P := fun s os t => 128 * eventsAt p os + (t.phase - p).toNat = (s.phase - p).toNat + eventCount os)
    (fun s => by simp) ?edge vs hk hr ht hos
  case edge =>
    intro v vs s u os t hk hv hu hrest
    have hedge := hu.angle_counts hk (decode_ne_reset hv) p
    have hregs : (atFirstEdge true (v :: vs) s).toRegs = s.toRegs := rfl
    have hevent : eventsAt p (outputs u :: os) = eventsAt p os + if u.upd = 1 ∧ u.phase = p then 1 else 0 :=
      eventsAt_cons p _ os
    have hcount : eventCount (outputs u :: os) = eventCount os + u.upd.toNat := eventCount_cons _ os
    rw [hregs] at hedge
    dsimp only at hrest
    omega

/-! ### The duties programmed -/

/-- The outputs show DUTY of the angle they show, on both sub-channels of each pair. -/
structure ShowsDuty (rom : SineRom) (o : Outputs) : Prop where
  duty : dutyOf rom o.phaseO = .ok ⟨o.dutyA0O, o.dutyB0O⟩
  pairA : o.dutyA1O = o.dutyA0O
  pairB : o.dutyB1O = o.dutyB0O

/-- The outputs of a state whose registers hold DUTY of its angle show it. -/
theorem showsDuty_outputs {rom : SineRom} {s : State} {d : DutyPair} (hd : dutyOf rom s.phase = .ok d)
    (hs : holdsDuty s d) : ShowsDuty rom (outputs s) := by
  obtain ⟨ha0, ha1, hb0, hb1⟩ := hs
  refine ⟨?_, ha1.trans ha0.symm, hb1.trans hb0.symm⟩
  simp [outputs, dutyOut, hd, ha0, hb0]

/-- An edge that raises the strobe has programmed DUTY of the new angle (43_pwm_writer.md R141). -/
theorem Edge.showsDuty {i : Instr} {s t : State} (h : Edge i s t) (hk : s.known = true) (hupd : t.upd = 1) :
    ShowsDuty s.rom (outputs t) := by
  cases h with
  | reset b s => simp at hupd
  | unknownNop hu => simp [hk] at hu
  | unknownTick hu => simp [hk] at hu
  | nop hk => simp at hupd
  | count hk hc => simp at hupd
  | advance hk hc hd => exact showsDuty_outputs hd (holdsDuty_program _ _)

/-- Every event of a run shows DUTY of its angle, by the one table. -/
theorem runVectors_read_showsDuty {vs : List U2} {s t : State} {os : List Outputs} (hk : s.known = true)
    (hr : noReset vs) (ht : runVectors true vs s = .next t) (hos : t.readings = s.readings ++ os) :
    ∀ o ∈ os, o.updO = 1 → ShowsDuty s.rom o := by
  refine runVectors_read_induction (P := fun s os _ => ∀ o ∈ os, o.updO = 1 → ShowsDuty s.rom o)
    (fun s => by simp) ?edge vs hk hr ht hos
  case edge =>
    intro v vs s u os t hk _ hu hrest
    obtain ⟨hrom, -⟩ := hu.frame
    rw [atFirstEdge_rom] at hrom
    exact List.forall_mem_cons.mpr ⟨fun hupd => hu.showsDuty hk hupd, fun o ho hupd => hrom ▸ hrest o ho hupd⟩

/-- Half a cycle on, the two duties are exchanged: the samples lie at the same distance on the two sides of the midpoint
(44_tick_step.md R165). -/
theorem dutyOf_add_half {rom : SineRom} {a : U7} {d : DutyPair} (h : dutyOf rom a = .ok d) :
    dutyOf rom (a + 64) = .ok d.swap := by
  obtain ⟨v, d₁, hv, hd, -, hpos, hneg⟩ := dutyOf_eq_ok rom a
  obtain ⟨w, d', hw, hd', -, hpos', hneg'⟩ := dutyOf_eq_ok rom (a + 64)
  obtain ⟨v', w', hv', hw', hsum⟩ := halfCycleInversion rom a
  obtain rfl : d₁ = d := Except.ok.inj (hd.symm.trans h)
  obtain rfl : v = v' := Except.ok.inj (hv.symm.trans hv')
  obtain rfl : w = w' := Except.ok.inj (hw.symm.trans hw')
  have hswapPos : d'.pos = d₁.neg := BitVec.eq_of_toNat_eq (by omega)
  have hswapNeg : d'.neg = d₁.pos := BitVec.eq_of_toNat_eq (by omega)
  rw [hd', DutyPair.swap, ← hswapPos, ← hswapNeg]

/-- Outputs that show DUTY half a cycle apart show exchanged duties (43_pwm_writer.md R145). -/
theorem ShowsDuty.swapped {rom : SineRom} {o o' : Outputs} (h : ShowsDuty rom o) (h' : ShowsDuty rom o')
    (hhalf : o'.phaseO = o.phaseO + 64) : o'.dutyA0O = o.dutyB0O ∧ o'.dutyB0O = o.dutyA0O := by
  have hduty := h'.duty
  rw [hhalf, dutyOf_add_half h.duty] at hduty
  simpa [DutyPair.swap, eq_comm] using hduty

/-! ### The obligations -/

/-- Settles O25: 512 raw ticks are 128 events, which carry the angle once round, past every angle; and each event shows
DUTY of its angle. -/
theorem fullCycleProgramsEveryAngleOnce : Obligations.FullCycleProgramsEveryAngleOnce := by
  intro s vs hk hr hfull
  obtain ⟨t, os, ht, hos, -, -, hphase, hevents⟩ := runVectors_read_ticks_counted vs hk hr
  have hscaler := s.scaler.isLt
  have hlt := s.phase.isLt
  have hcount : eventCount os = 128 := by omega
  have hround : t.phase = s.phase := BitVec.eq_of_toNat_eq (by omega)
  refine ⟨t, os, ht, hos, hcount, fun p => ?once, fun o ho o' ho' hupd hupd' hhalf => ?swapped⟩
  case once =>
    have hp := runVectors_read_eventsAt p hk hr ht hos
    rw [hround, hcount] at hp
    change eventsAt p os = 1
    omega
  case swapped =>
    have hshows := runVectors_read_showsDuty hk hr ht hos
    have hduty := hshows o ho hupd
    obtain ⟨hA, hB⟩ := hduty.swapped (hshows o' ho' hupd') hhalf
    exact ⟨hA, hB, hduty.pairA, hduty.pairB⟩

/-- Settles O48. -/
theorem programWritesBothPairs : Obligations.ProgramWritesBothPairs :=
  fun d s => program_eq s d

end Sys2Proof.Machine
end

section
/-! PROOFS. The step of spec/44_tick_step.md: what STEP selects, what NOP and TICK write, DUTY and its table, and the one
way out of an unknown state. -/

namespace Sys2Proof.Machine

/-! ### DUTY and its table -/

/-- The quarter wave in the terms of the table of R164: an entry inside the ROM, 0 at its start, and the peak after it. -/
theorem quarterAt_row (rom : SineRom) (i : Nat) :
    quarterAt rom i ≤ 127 ∧ (i = 0 → quarterAt rom i = 0) ∧ (i < 32 → quarterAt rom i = entry rom i) ∧
      (i = 32 → quarterAt rom i = 127) :=
  ⟨quarterAt_of_ge rom (le_max_right i 32) ▸ quarterAt_monotone rom (le_max_left i 32),
    fun h => h ▸ quarterAt_zero rom, fun h => if_pos h, fun h => quarterAt_of_ge rom h.ge⟩

/-- The table of R164 is twice the distance of the table of SINE from the midpoint, on either side of it: within a band the
rows for its ends are the quarter wave at 0 and at its peak. -/
theorem dutyTable_eq_sineTable (rom : SineRom) {n : Nat} (h : n < 128) :
    dutyTable rom n = (2 * (sineTable rom n - 127), 2 * (127 - sineTable rom n)) := by
  rw [sineTable]
  split_ifs with h32 h64 h96
  · have hrow := quarterAt_row rom n
    grind [dutyTable]
  · have hrow := quarterAt_row rom (64 - n)
    grind [dutyTable]
  · have hrow := quarterAt_row rom (n - 64)
    grind [dutyTable]
  · have hrow := quarterAt_row rom (128 - n)
    grind [dutyTable]

/-- DUTY is DRIVE of the sample that SINE answers (44_tick_step.md R164). -/
theorem dutyOf_eq_drive {rom : SineRom} {a : U7} {v : U8} (h : sine rom a = .ok v) : dutyOf rom a = drive v := by
  rw [dutyOf, h]

/-- Pair A is 0 in the half cycle from 64 on, pair B in the half up to 64 (44_tick_step.md R165). -/
theorem dutyOf_zero_half {rom : SineRom} {a : U7} {d : DutyPair} (h : dutyOf rom a = .ok d) :
    (64 ≤ a.toNat → d.pos = 0) ∧ (a.toNat ≤ 64 → d.neg = 0) := by
  obtain ⟨v, d', hv, hd, -, hpos, hneg⟩ := dutyOf_eq_ok rom a
  obtain ⟨-, v', -, hv', -, -, habove, hbelow, -⟩ := sineStaysInRange rom a
  obtain rfl : d' = d := Except.ok.inj (hd.symm.trans h)
  obtain rfl : v = v' := Except.ok.inj (hv.symm.trans hv')
  refine ⟨fun ha => BitVec.eq_of_toNat_eq ?_, fun ha => BitVec.eq_of_toNat_eq ?_⟩
  · rw [hpos, Nat.sub_eq_zero_of_le (hbelow ha)]
    rfl
  · rw [hneg, Nat.sub_eq_zero_of_le (habove ha)]
    rfl

/-- DUTY is symmetric about angle 32, as SINE is (44_tick_step.md R165). -/
theorem dutyOf_reflect (rom : SineRom) (a : U7) : dutyOf rom (64 - a) = dutyOf rom a := by
  rw [dutyOf, dutyOf, sine_reflect]

/-! ### The selection of STEP -/

/-- `rst_i` low selects no RESET (44_tick_step.md R160). -/
theorem decode_ctrl_zero_ne_reset (tick : U1) (b : Bool) : decode (ctrl 0 tick) ≠ .reset b :=
  decode_ne_reset (resets_ctrl 0 tick) b

section
variable {i : Instr} {s t : State}

/-- An edge without a reset leaves an unknown state unknown by drawing new registers; nothing else changes
(44_tick_step.md R167). -/
theorem Edge.eq_toUnknown (h : Edge i s t) (hk : s.known = false) (hr : ∀ b, i ≠ .reset b) :
    ∃ d, t = toUnknown d s := by
  cases h with
  | reset b s => exact absurd rfl (hr b)
  | unknownNop _ => exact ⟨_, rfl⟩
  | unknownTick _ => exact ⟨_, rfl⟩
  | nop hk' => simp [hk] at hk'
  | count hk' _ => simp [hk] at hk'
  | advance hk' _ _ => simp [hk] at hk'

/-- A TICK from a known state writes what ADVANCE answers (44_tick_step.md R162). -/
theorem Edge.tick_advance (h : Edge .tick s t) (hk : s.known = true) :
    t.phase = (Machine.advance s.phase s.scaler).phase ∧ t.scaler = (Machine.advance s.phase s.scaler).scaler ∧
      t.upd = updOf (Machine.advance s.phase s.scaler).adv := by
  cases h with
  | unknownTick hu => simp [hk] at hu
  | count _ hc =>
    rcases advance_cases s.phase s.scaler with ⟨h3, -⟩ | ⟨-, ha, -⟩
    · exact absurd h3 hc
    · rw [ha]
      exact ⟨rfl, rfl, rfl⟩
  | advance _ hc _ =>
    rcases advance_cases s.phase s.scaler with ⟨-, ha⟩ | ⟨hne, -⟩
    · rw [ha]
      exact ⟨rfl, rfl, rfl⟩
    · exact absurd hc hne

end

/-- From an unknown state every operation but RESET answers an unknown state (44_tick_step.md R160, R167). -/
theorem exec_unknown {i : Instr} {s : State} (hk : s.known = false) (hr : ∀ b, i ≠ .reset b) :
    ∃ d, exec i s = .next (toUnknown d s) := by
  obtain ⟨t, h⟩ := edge_total i s
  obtain ⟨d, rfl⟩ := h.eq_toUnknown hk hr
  exact ⟨d, h.exec_eq⟩

/-! ### One step with the host's side -/

/-- Taking a listed cycle, written out. -/
theorem takeCycle_of_pending {s : State} {c : HostCycle} {cs : List HostCycle} (hp : s.pending = c :: cs) :
    takeCycle s = { s with pending := cs, cycle := s.cycle + 1 } := by
  rw [takeCycle, hp, List.tail_cons]

/-- With no listed cycle only the edge is counted (log 4). -/
theorem takeCycle_of_nil {s : State} (hp : s.pending = []) : takeCycle s = { s with cycle := s.cycle + 1 } := by
  rw [takeCycle, hp, List.tail_nil, ← hp]

/-- With no listed cycle the vector is free and nothing is read (log 4). -/
theorem nextCycle_of_nil {s : State} (hp : s.pending = []) : nextCycle s = ⟨Config.hostCtrl s.cycle, false⟩ := by
  rw [nextCycle, hp]

/-- A cycle that reads adds the outputs of a known state to the readings, and stops with UNRESET_READ at an unknown one
(60_exceptions.md R183). -/
theorem hostRead_true (s : State) :
    hostRead true s =
      if s.known then .next { s with readings := s.readings ++ [outputs s] } else .fault (.unresetRead s.cycle) := by
  rcases hostRead_cases true s with ⟨hr, -⟩ | ⟨-, hk, h⟩ | ⟨-, hk, h⟩
  · cases hr
  · rw [h, if_pos hk]
  · rw [h, if_neg (by simp [hk])]

/-- The step past the listed cycles is the operation of the free vector alone (log 4). -/
theorem step_of_nil {s : State} (hp : s.pending = []) :
    step s = exec (decode (Config.hostCtrl s.cycle)) (takeCycle s) := by
  have hnext := nextCycle_of_nil hp
  obtain ⟨u, hu⟩ := edge_total (decode (nextCycle s).ctrl) (takeCycle s)
  have hstep := step_of_exec hu.exec_eq
  rw [hnext] at hu hstep
  exact hstep.trans hu.exec_eq.symm

/-! ### The obligations -/

/-- Settles O8: RESET by `edge_ctrl_one`, and with `rst_i` low an edge that draws, a NOP, or a TICK. -/
theorem stepSelectsByResetThenKnownThenTick : Obligations.StepSelectsByResetThenKnownThenTick := by
  intro s rst tick
  refine ⟨?reset, ?unknown, ?nop, ?tick⟩
  case reset =>
    rintro rfl
    exact (edge_ctrl_one tick s).exec_eq
  case unknown =>
    rintro rfl hk
    exact exec_unknown hk (decode_ctrl_zero_ne_reset tick)
  case nop =>
    rintro rfl hk rfl
    exact (Edge.nop hk).exec_eq
  case tick =>
    rintro rfl hk rfl
    obtain ⟨t, h⟩ := edge_total .tick s
    obtain ⟨hphase, hscaler, hupd⟩ := h.tick_advance hk
    exact ⟨t, h.exec_eq, hphase, hscaler, hupd, h.known hk⟩

/-- Settles O49: DRIVE doubles the distances of the sample from the midpoint, and the sample is that of SINE's table. -/
theorem dutyEqualsItsTable : Obligations.DutyEqualsItsTable := by
  intro rom a
  obtain ⟨v, d, hv, hd, -, hpos, hneg⟩ := dutyOf_eq_ok rom a
  obtain ⟨v', hv', hvalue⟩ := sineFollowsTheBands rom a
  obtain rfl : v = v' := Except.ok.inj (hv.symm.trans hv')
  refine ⟨v, d, hv, (dutyOf_eq_drive hv).symm.trans hd, hd, ?_⟩
  rw [dutyTable_eq_sineTable rom a.isLt, hpos, hneg, hvalue]

/-- Settles O10, by the two edges of a TICK from a known state. -/
theorem tickCountsOrAdvances : Obligations.TickCountsOrAdvances := by
  intro s hk
  refine ⟨fun hc => (Edge.count hk hc).exec_eq, fun hc => ?_⟩
  obtain ⟨v, d, hv, hdrive, hd, htable⟩ := dutyEqualsItsTable s.rom (s.phase + 1)
  exact ⟨v, d, hv, hdrive, htable, (Edge.advance hk hc hd).exec_eq⟩

/-- Settles O14: every edge without a reset draws, and so does every such edge of a run. -/
theorem onlyResetLeavesTheUnknownState : Obligations.OnlyResetLeavesTheUnknownState := by
  refine ⟨fun s hk => ⟨exec_unknown hk (by simp), exec_unknown hk (by simp)⟩, fun i s t hk h => ?exec,
    fun s vs hk hr => ?run⟩
  case exec =>
    simpa [hk] using (exec_next_iff.mp h).known_iff
  case run =>
    obtain ⟨t, ht, hunknown, -⟩ := runVectors_unread_unknown vs hk hr
    exact ⟨t, ht, hunknown⟩

/-- Settles O50: a half cycle leaves one pair at 0, and the symmetries are those of SINE. -/
theorem dutyLaws : Obligations.DutyLaws := by
  intro rom a
  obtain ⟨-, d, -, hd, -⟩ := dutyOf_eq_ok rom a
  obtain ⟨hzeroA, hzeroB⟩ := dutyOf_zero_half hd
  obtain ⟨-, hlegalA, hlegalB⟩ := dutyOf_laws hd
  exact ⟨d, hd, hzeroA, hzeroB, dutyOf_add_half hd, fun _ => (dutyOf_reflect rom a).trans hd, hlegalA, hlegalB⟩

/-- Settles O6: the coming cycle is listed unread, listed read, or past the list. -/
theorem stepRunsTheDecodedOperation : Obligations.StepRunsTheDecodedOperation := by
  refine ⟨fun s v cs hp => ?unread, fun s t v cs hp h => ?read, fun s hp => ?pastTheList⟩
  case unread =>
    rw [step_of_unread hp, takeCycle_of_pending hp]
  case read =>
    rw [← takeCycle_of_pending hp] at h
    rw [step_of_edge hp (exec_next_iff.mp h), hostRead_true]
  case pastTheList =>
    rw [step_of_nil hp, takeCycle_of_nil hp]

/-- Settles O9. -/
theorem nopClearsTheStrobeOnly : Obligations.NopClearsTheStrobeOnly :=
  fun _ hk => (Edge.nop hk).exec_eq

end Sys2Proof.Machine
end

section
/-! PROOFS. The failures of spec/60_exceptions.md: the one way in which a step stops, the stages' domains, what a refused
table records, and that a fault ends the run. -/

namespace Sys2Proof.Machine

/-! ### A reading before the first RESET (R183) -/

/-- The listed cycle reads the outputs of a state that is unknown and that its operation leaves unknown. -/
def ReadsBeforeReset (s : State) : Prop :=
  s.known = false ∧ ∃ c cs, s.pending = c :: cs ∧ c.read = true ∧ resets c.ctrl = false

/-- Only a listed cycle reads, so that the coming cycle may stand for it (log 4). -/
theorem readsBeforeReset_iff (s : State) :
    ReadsBeforeReset s ↔ s.known = false ∧ (nextCycle s).read = true ∧ resets (nextCycle s).ctrl = false := by
  cases hp : s.pending with
  | nil => simp [ReadsBeforeReset, hp, nextCycle_of_nil hp]
  | cons c cs => simp [ReadsBeforeReset, nextCycle, hp]

/-- After the edge of a vector the state is unknown exactly when it was before and the vector keeps `rst_i` low
(44_tick_step.md R167). -/
theorem Edge.unknown_iff {v : U2} {s t : State} (h : Edge (decode v) s t) :
    t.known = false ↔ s.known = false ∧ resets v = false := by
  have hknown := h.known_iff
  rw [← resets_iff] at hknown
  simpa using hknown.not

/-- Everything a step can do: it faults on a reading before the first RESET, and else answers a next state. -/
theorem step_cases (s : State) :
    (¬ ReadsBeforeReset s ∧ ∃ t, step s = .next t) ∨
      (ReadsBeforeReset s ∧ step s = .fault (.unresetRead (s.cycle + 1))) := by
  obtain ⟨u, hu⟩ := edge_total (decode (nextCycle s).ctrl) (takeCycle s)
  obtain ⟨-, -, hcycle, -⟩ := hu.frame
  have hunknown : u.known = false ↔ s.known = false ∧ resets (nextCycle s).ctrl = false := hu.unknown_iff
  rw [readsBeforeReset_iff, step_of_exec hu.exec_eq]
  rcases hostRead_cases (nextCycle s).read u with ⟨hread, h⟩ | ⟨-, hk, h⟩ | ⟨hread, hk, h⟩
  · exact .inl ⟨by simp [hread], _, h⟩
  · refine .inl ⟨fun ⟨hs, _, hlow⟩ => ?_, _, h⟩
    simp [hunknown.mpr ⟨hs, hlow⟩] at hk
  · obtain ⟨hs, hlow⟩ := hunknown.mp hk
    exact .inr ⟨⟨hs, hread, hlow⟩, by rw [h, hcycle, takeCycle_cycle]⟩

/-! ### Runs and their faults (R181) -/

/-- Everything a run can do: a next state, or the UNRESET_READ of one of its steps. -/
theorem runFor_cases (k : Nat) : ∀ s : State,
    (∃ t, runFor k s = .next t) ∨ ∃ n, runFor k s = .fault (.unresetRead n) := by
  induction k with
  | zero => exact fun s => .inl ⟨s, rfl⟩
  | succ k ih =>
    intro s
    rcases step_cases s with ⟨-, t, h⟩ | ⟨-, h⟩
    · rw [runFor_succ_next h]
      exact ih t
    · exact .inr ⟨_, runFor_succ_fault h k⟩

/-- A run that has faulted stays at that fault, however long it is (log 12). -/
theorem runFor_fault_add {k : Nat} {f : Fault} (n : Nat) :
    ∀ {s : State}, runFor k s = .fault f → runFor (k + n) s = .fault f := by
  induction k with
  | zero =>
    intro s h
    cases h
  | succ k ih =>
    intro s h
    rw [Nat.succ_add]
    rcases step_cases s with ⟨-, t, hs⟩ | ⟨-, hs⟩
    · rw [runFor_succ_next hs] at h ⊢
      exact ih h
    · rw [runFor_succ_fault hs] at h ⊢
      exact h

/-- Unread vectors without a reset keep an unknown state unknown, also where further cycles are listed after them. -/
theorem runFor_unread_unknown (cs : List HostCycle) (vs : List U2) : ∀ {s : State}, s.known = false → noReset vs →
    ∃ t, runFor vs.length (withScript (scriptOf false vs ++ cs) s) = .next t ∧
      t.known = false ∧ t.pending = cs ∧ t.cycle = s.cycle + vs.length := by
  induction vs with
  | nil => exact fun hk _ => ⟨_, rfl, hk, rfl, rfl⟩
  | cons v vs ih =>
    intro s hk hr
    obtain ⟨hv, hvs⟩ := (noReset_cons v vs).mp hr
    obtain ⟨u, hu⟩ := edge_total (decode v) (takeCycle (withScript (scriptOf false (v :: vs) ++ cs) s))
    have hstep : step (withScript (scriptOf false (v :: vs) ++ cs) s) = .next u :=
      step_of_edge (read := false) rfl hu
    obtain ⟨-, hpending, hcycle, -⟩ := hu.frame
    have hlist : u.pending = scriptOf false vs ++ cs := hpending
    have hown : withScript (scriptOf false vs ++ cs) u = u := hlist ▸ withScript_own u
    obtain ⟨t, ht, hunknown, hrest, hcount⟩ := ih (hu.unknown_iff.mpr ⟨hk, hv⟩) hvs
    rw [hown] at ht
    refine ⟨t, (runFor_succ_next hstep _).trans ht, hunknown, hrest, ?_⟩
    rw [hcount, hcycle, takeCycle_cycle, withScript_cycle, List.length_cons, Nat.add_right_comm, Nat.add_assoc]

/-! ### What a refused table records (R184) -/

/-- What `firstAbove` reports is the first position of a byte above 127. -/
theorem firstAbove_eq_some {T : List U8} : ∀ {p n : Nat}, firstAbove p T = some n →
    ∃ i b, n = p + i ∧ T[i]? = some b ∧ 127 < b.toNat ∧
      ∀ (j : Nat) (c : U8), j < i → T[j]? = some c → c.toNat ≤ 127 := by
  induction T with
  | nil =>
    intro p n h
    cases h
  | cons b T ih =>
    intro p n h
    rw [firstAbove] at h
    split at h
    next hb =>
      obtain rfl := Option.some.inj h
      exact ⟨0, b, rfl, rfl, hb, fun j c hj => absurd hj (Nat.not_lt_zero j)⟩
    next hb =>
      obtain ⟨i, b', rfl, hb', habove, hfirst⟩ := ih h
      refine ⟨i + 1, b', by omega, hb', habove, fun j c hj hc => ?_⟩
      cases j with
      | zero =>
        obtain rfl := Option.some.inj hc
        omega
      | succ j => exact hfirst j c (Nat.lt_of_succ_lt_succ hj) hc

/-- What `firstDrop` reports is the position of the lower byte of the first falling pair. -/
theorem firstDrop_eq_some {T : List U8} : ∀ {p n : Nat}, firstDrop p T = some n →
    ∃ i b c, n = p + (i + 1) ∧ T[i]? = some b ∧ T[i + 1]? = some c ∧ c.toNat < b.toNat ∧
      ∀ (j : Nat) (x y : U8), j < i → T[j]? = some x → T[j + 1]? = some y → x.toNat ≤ y.toNat := by
  induction T with
  | nil =>
    intro p n h
    cases h
  | cons b T ih =>
    intro p n h
    cases T with
    | nil => cases h
    | cons c T =>
      rw [firstDrop] at h
      split at h
      next hbc =>
        obtain rfl := Option.some.inj h
        exact ⟨0, b, c, rfl, rfl, rfl, hbc, fun j x y hj => absurd hj (Nat.not_lt_zero j)⟩
      next hbc =>
        obtain ⟨i, b', c', rfl, hb', hc', hdrop, hfirst⟩ := ih h
        refine ⟨i + 1, b', c', by omega, hb', hc', hdrop, fun j x y hj hx hy => ?_⟩
        cases j with
        | zero =>
          obtain rfl := Option.some.inj hx
          obtain rfl := Option.some.inj hy
          omega
        | succ j => exact hfirst j x y (Nat.lt_of_succ_lt_succ hj) hx hy

/-- Everything the check of a table can report: each item with the items before it met. -/
theorem tableDefect_eq_some {T : List U8} {d : TableDefect} (h : tableDefect T = some d) :
    (T.length ≠ 32 ∧ d = ⟨.length, none⟩) ∨
    (T.length = 32 ∧ ∃ i, firstAbove 0 T = some i ∧ d = ⟨.range, some i⟩) ∨
    (T.length = 32 ∧ firstAbove 0 T = none ∧ T[0]? ≠ some 0 ∧ d = ⟨.zeroStart, some 0⟩) ∨
    (T.length = 32 ∧ firstAbove 0 T = none ∧ T[0]? = some 0 ∧
      ∃ i, firstDrop 0 T = some i ∧ d = ⟨.nonDecreasing, some i⟩) := by
  rw [tableDefect, List.head?_eq_getElem?] at h
  split at h
  next hlen => exact .inl ⟨hlen, (Option.some.inj h).symm⟩
  next hlen =>
    have hlen : T.length = 32 := not_not.mp hlen
    split at h
    next i hi => exact .inr (.inl ⟨hlen, i, hi, (Option.some.inj h).symm⟩)
    next habove =>
      split at h
      next hzero => exact .inr (.inr (.inl ⟨hlen, habove, hzero, (Option.some.inj h).symm⟩))
      next hzero =>
        split at h
        next i hi =>
          exact .inr (.inr (.inr ⟨hlen, habove, not_not.mp hzero, i, hi, (Option.some.inj h).symm⟩))
        next => cases h

/-- A table is refused for the defect that its check reports. -/
theorem tableDefect_of_refused {T : List U8} {d : TableDefect} (h : loadTable T = .refused (.badTable d)) :
    tableDefect T = some d := by
  rcases loadTable_cases T with ⟨-, rom, hload, -⟩ | ⟨d', hd', hload⟩
  · simp [hload] at h
  · obtain rfl : d' = d := by simpa [hload] using h
    exact hd'

/-! ### The domains of the stages (R182) -/

/-- Over the wider type SINE is SINE on the hardware's angles (40_sine_lut.md R90). -/
theorem sineAt_toNat (rom : SineRom) (a : U7) : sineAt rom a.toNat = sine rom a := by
  rw [sineAt, if_pos a.isLt, trunc, BitVec.ofNat_toNat, BitVec.setWidth_eq]

/-- Over the wider type an angle of 128 or more is outside SINE's domain (40_sine_lut.md R90). -/
theorem sineAt_of_ge (rom : SineRom) {a : Nat} (h : 128 ≤ a) : sineAt rom a = .error (.domain .sine a) := by
  rw [sineAt, if_neg (Nat.not_lt.mpr h)]

/-! ### The failure reasons (R181) -/

@[simp] theorem stopsOnlyWithReason_next {σ : Type} (s : σ) : stopsOnlyWithReason (.next s) = true := rfl
@[simp] theorem stopsOnlyWithReason_fault {σ : Type} (f : Fault) :
    stopsOnlyWithReason (σ := σ) (.fault f) = true := rfl

/-- What a step stops with, as a failure reason (R183). -/
theorem stopReason_step (s : State) :
    stopReason (step s) = none ∨ stopReason (step s) = some (.unresetRead (s.cycle + 1)) := by
  rcases step_cases s with ⟨-, t, h⟩ | ⟨-, h⟩
  · exact .inl (by rw [h, stopReason_next])
  · exact .inr (by rw [h, stopReason_fault, faultReason])

/-- A step stops, if it stops, with a failure reason. -/
theorem stopsOnlyWithReason_step (s : State) : stopsOnlyWithReason (step s) = true := by
  rcases step_cases s with ⟨-, t, h⟩ | ⟨-, h⟩
  · rw [h, stopsOnlyWithReason_next]
  · rw [h, stopsOnlyWithReason_fault]

/-- A run stops, if it stops, with a failure reason. -/
theorem stopsOnlyWithReason_runFor (k : Nat) (s : State) : stopsOnlyWithReason (runFor k s) = true := by
  rcases runFor_cases k s with ⟨t, h⟩ | ⟨n, h⟩
  · rw [h, stopsOnlyWithReason_next]
  · rw [h, stopsOnlyWithReason_fault]

/-! ### The obligations -/

/-- Settles O30. -/
theorem stepFaultsExactlyOnUnresetRead : Obligations.StepFaultsExactlyOnUnresetRead := by
  intro s
  change _ ∧ ∀ f, step s = .fault f ↔ f = .unresetRead (s.cycle + 1) ∧ ReadsBeforeReset s
  rcases step_cases s with ⟨hno, t, h⟩ | ⟨hreads, h⟩
  · simp [h, hno]
  · simp [h, hreads, eq_comm]

/-- Settles O32: the unread cycles pass, and the reading after them is a fault, which ends the run. -/
theorem unresetReadIsNeverCleared : Obligations.UnresetReadIsNeverCleared := by
  intro s vs v cs k hk hr hv hlt
  obtain ⟨m, rfl⟩ := Nat.exists_eq_add_of_lt hlt
  obtain ⟨t, ht, hunknown, hpending, hcycle⟩ := runFor_unread_unknown (⟨v, true⟩ :: cs) vs hk hr
  have hreads : ReadsBeforeReset t := ⟨hunknown, _, cs, hpending, rfl, hv⟩
  rcases step_cases t with ⟨hno, -⟩ | ⟨-, hstep⟩
  · exact absurd hreads hno
  · rw [Nat.add_assoc, runFor_add ht, runFor_succ_fault hstep, hcycle]

/-- Settles O36: the items are tried in order, and each search reports the first index. -/
theorem badTableRecordsItemAndFirstIndex : Obligations.BadTableRecordsItemAndFirstIndex := by
  intro T d h
  rcases tableDefect_eq_some (tableDefect_of_refused h) with
    ⟨hlen, rfl⟩ | ⟨hlen, n, hn, rfl⟩ | ⟨hlen, hnone, hzero, rfl⟩ | ⟨hlen, hnone, hzero, n, hn, rfl⟩
  · exact .inl ⟨rfl, rfl, hlen⟩
  · obtain ⟨i, b, rfl, hb, habove, hfirst⟩ := firstAbove_eq_some hn
    exact .inr (.inl ⟨rfl, hlen, i, b, by simp, hb, habove, hfirst⟩)
  · exact .inr (.inr (.inl ⟨rfl, hlen, le_of_firstAbove_none T 0 hnone, rfl, hzero⟩))
  · obtain ⟨i, b, c, rfl, hb, hc, hdrop, hfirst⟩ := firstDrop_eq_some hn
    exact .inr (.inr (.inr ⟨rfl, hlen, le_of_firstAbove_none T 0 hnone, hzero, i, b, c, by simp, hb, hc, hdrop, hfirst⟩))

/-- Settles O31: the stages by their cases, and the one fault of a step is not DOMAIN. -/
theorem domainFaultsOutsideTheDomainsOnly : Obligations.DomainFaultsOutsideTheDomainsOnly := by
  refine ⟨fun rom a => sineAt_of_ge rom, fun rom a => ⟨sineAt_toNat rom a, ?sine⟩, rfl, fun s hs => ?split,
    fun rom i hi => ?outside, fun rom i hi => ?inside, fun s stage v => ?step⟩
  case sine =>
    obtain ⟨q, -, hv⟩ := sine_cases rom a
    exact ⟨_, hv⟩
  case split =>
    have hne : s.toNat ≠ 255 := fun h => hs (BitVec.eq_of_toNat_eq h)
    exact split_eq_ok (by omega)
  case outside =>
    rcases romRead_cases rom i with ⟨hlt, -⟩ | ⟨-, h⟩
    · omega
    · exact h
  case inside =>
    rcases romRead_cases rom i with ⟨-, b, hb, h, -⟩ | ⟨hge, -⟩
    · exact ⟨b, hb, h⟩
    · omega
  case step =>
    rcases step_cases s with ⟨-, t, h⟩ | ⟨-, h⟩ <;> simp [h]

/-- Settles O51: operations never stop, steps and readings stop with UNRESET_READ, configuration with BAD_TABLE, and a run
with what its step stops with. -/
theorem failuresAreTheThreeReasons : Obligations.FailuresAreTheThreeReasons := by
  refine ⟨fun r => ?closed, fun r => ?codes, fun f => ?faults, fun i s => ?operations,
    fun s => ⟨stopsOnlyWithReason_step s, stopReason_step s⟩, fun s => ?readings, fun n T => ?configuration,
    fun k n s f => runFor_fault_add n, stopsOnlyWithReason_runFor⟩
  case closed => cases r <;> simp [reasonCode]
  case codes => cases r <;> simp [reasonCode]
  case faults => cases f <;> simp [faultReason, reasonCode]
  case operations =>
    obtain ⟨t, h⟩ := edge_total i s
    exact ⟨t, h.exec_eq⟩
  case readings =>
    obtain ⟨hknown, hunknown⟩ := readingGivesThePortsOrUnresetRead s
    cases hk : s.known with
    | true => exact .inl ⟨by rw [hknown hk, stopReason_next], rfl⟩
    | false => exact .inr ⟨by rw [hunknown hk, stopReason_fault, faultReason], rfl⟩
  case configuration =>
    rcases powerOn_cases n T with ⟨hok, rom, h, -⟩ | ⟨d, hbad, h⟩
    · exact .inl ⟨_, h, hok⟩
    · exact .inr ⟨d, h, hbad, by rw [h, stopReason_badTable]⟩

end Sys2Proof.Machine
end

section
/-! PROOFS. Reset and hazards (70_reset_and_hazards.md): what a RESET makes of the runs after it, held resets, a block that
is never ticked, and runs that are read only from a RESET on. -/

namespace Sys2Proof.Machine

/-! ### From a RESET to the first advance (R201, R213) -/

/-- A sequence holds no reset exactly when neither part of it does. -/
theorem noReset_append (us vs : List U2) : noReset (us ++ vs) ↔ noReset us ∧ noReset vs := List.forall_mem_append

/-- The raw ticks of a sequence are those of its two parts. -/
theorem tickCount_append (us vs : List U2) : tickCount (us ++ vs) = tickCount us + tickCount vs := List.countP_append

/-- What the output ports show of RESET_STATE (70_reset_and_hazards.md R200). -/
def resetOutputs : Outputs := ⟨0, 0, 0, 0, 0, 0⟩

/-- A run that is read and starts with RESET has read RESET_STATE, and goes on from a state that shows it with an empty
scaler. -/
theorem runVectors_read_reset_outputs (b : U1) (vs : List U2) (s : State) :
    ∃ r, r.known = true ∧ r.scaler = 0 ∧ outputs r = resetOutputs ∧ r.readings = s.readings ++ [resetOutputs] ∧
      runVectors true (ctrl 1 b :: vs) s = runVectors true vs r :=
  ⟨_, rfl, rfl, rfl, rfl, runVectors_read_cons (edge_ctrl_one b _) rfl⟩

/-- An edge without a reset and without a strobe leaves the angle and the duties (43_pwm_writer.md R144). -/
theorem Edge.outputs_of_upd_zero {i : Instr} {s t : State} (h : Edge i s t) (hk : s.known = true)
    (hr : ∀ b, i ≠ .reset b) (hupd : t.upd = 0) : outputs t = { outputs s with updO := 0 } := by
  cases h with
  | reset b s => exact absurd rfl (hr b)
  | unknownNop hu => simp [hk] at hu
  | unknownTick hu => simp [hk] at hu
  | nop _ => rfl
  | count _ _ => rfl
  | advance _ _ _ => simp at hupd

/-- As long as no strobe is read, every reading shows the angle and the duties that the run began with. -/
theorem runVectors_read_without_events {vs : List U2} {s t : State} {os : List Outputs} (hk : s.known = true)
    (hr : noReset vs) (ht : runVectors true vs s = .next t) (hos : t.readings = s.readings ++ os) :
    eventCount os = 0 → ∀ o ∈ os, o = { outputs s with updO := 0 } := by
  refine runVectors_read_induction
    (P := fun s os _ => eventCount os = 0 → ∀ o ∈ os, o = { outputs s with updO := 0 })
    (fun s => by simp) ?edge vs hk hr ht hos
  case edge =>
    intro v vs s u os t hk hv hu hrest hnone
    have hcount : eventCount (outputs u :: os) = eventCount os + u.upd.toNat := eventCount_cons _ os
    have hupd : u.upd.toNat = 0 := by omega
    have hkept : outputs u = { outputs s with updO := 0 } :=
      hu.outputs_of_upd_zero hk (decode_ne_reset hv) (BitVec.eq_of_toNat_eq hupd)
    refine List.forall_mem_cons.mpr ⟨hkept, fun o ho => ?_⟩
    calc o = { outputs u with updO := 0 } := hrest (by omega) o ho
      _ = { outputs s with updO := 0 } := by rw [hkept]

/-- A run that is read from a RESET on: the reading of RESET_STATE comes first, the raw ticks after it are counted from 0,
and all readings show RESET_STATE until four ticks have been counted. -/
theorem runVectors_read_after_reset (b : U1) {vs : List U2} (hr : noReset vs) (s : State) :
    ∃ t os, runVectors true (ctrl 1 b :: vs) s = .next t ∧ t.readings = s.readings ++ os ∧
      t.scaler.toNat = tickCount vs % 4 ∧ eventCount os = tickCount vs / 4 ∧
      (tickCount vs < 4 → ∀ o ∈ os, o = resetOutputs) := by
  obtain ⟨r, hk, hscaler₀, hshows, hread, hrun⟩ := runVectors_read_reset_outputs b vs s
  obtain ⟨t, os, ht, hos, -, hscaler, -, hevents⟩ := runVectors_read_ticks_counted vs hk hr
  have hzero : r.scaler.toNat = 0 := by simp [hscaler₀]
  rw [hzero, Nat.zero_add] at hscaler hevents
  have hcount : eventCount (resetOutputs :: os) = eventCount os := eventCount_cons _ os
  refine ⟨t, resetOutputs :: os, hrun.trans ht, by simp [hos, hread], hscaler, hcount.trans hevents, fun hlt => ?_⟩
  have hkept := runVectors_read_without_events hk hr ht hos (by omega)
  rw [hshows] at hkept
  exact List.forall_mem_cons.mpr ⟨rfl, hkept⟩

/-! ### Held resets (R202) -/

/-- RESET_STATE `n` edges on, with no cycle left in the list. -/
def resetStateAfter (n : Nat) (s : State) : State := { toResetState s with pending := [], cycle := s.cycle + n }

/-- A vector that drives `rst_i` high leads to RESET_STATE (70_reset_and_hazards.md R200). -/
theorem edge_of_resets {v : U2} (h : resets v = true) (s : State) : Edge (decode v) s (toResetState s) := by
  obtain ⟨b, hb⟩ := (resets_iff v).mp h
  rw [hb]
  exact .reset b s

/-- A RESET `n` edges after another leaves nothing of it but the edges counted. -/
theorem resetStateAfter_resetStateAfter (m n : Nat) (s : State) :
    resetStateAfter n (resetStateAfter m s) = resetStateAfter (m + n) s := by
  simp [resetStateAfter, toResetState, Nat.add_assoc]

/-- An unread run that starts with `rst_i` high goes on from RESET_STATE. -/
theorem runVectors_unread_reset_cons {v : U2} (h : resets v = true) (vs : List U2) (s : State) :
    runVectors false (v :: vs) s = runVectors false vs (resetStateAfter 1 s) := by
  rw [runVectors_unread_cons (edge_of_resets h _)]
  rfl

/-- The run of one unread vector is its operation. -/
theorem runVectors_unread_singleton (v : U2) (s : State) :
    runVectors false [v] s = exec (decode v) (atFirstEdge false [v] s) := by
  obtain ⟨u, hu⟩ := edge_total (decode v) (atFirstEdge false [v] s)
  obtain ⟨-, hpending, -⟩ := hu.frame
  have hnil : u.pending = [] := hpending
  rw [runVectors_unread_cons hu, hu.exec_eq, runVectors_nil, ← hnil, withScript_own]

/-- After a held reset a run goes on from RESET_STATE, whatever the state before. -/
theorem runVectors_unread_held_reset {us : List U2} (hne : us ≠ []) (vs : List U2) :
    (∀ v ∈ us, resets v = true) → ∀ s,
      runVectors false (us ++ vs) s = runVectors false vs (resetStateAfter us.length s) := by
  induction us, hne using List.recNeNil with
  | singleton v => exact fun hreset => runVectors_unread_reset_cons (hreset v List.mem_cons_self) vs
  | cons v us _ ih =>
    intro hreset s
    obtain ⟨hv, hus⟩ := List.forall_mem_cons.mp hreset
    rw [List.cons_append, runVectors_unread_reset_cons hv, ih hus, resetStateAfter_resetStateAfter, List.length_cons,
      Nat.add_comm]

/-! ### NOPs (R223) -/

/-- A state `n` NOPs on: the strobe is low, the edges are counted, and no cycle is left in the list. -/
def idleAfter (n : Nat) (s : State) : State := { s with upd := 0, pending := [], cycle := s.cycle + n }

/-- NOPs add up. -/
theorem idleAfter_idleAfter (m n : Nat) (s : State) : idleAfter n (idleAfter m s) = idleAfter (m + n) s := by
  simp [idleAfter, Nat.add_assoc]

/-- An unread run from a known state that starts with a NOP goes on from the idle state. -/
theorem runVectors_unread_nop_cons {s : State} (hk : s.known = true) (vs : List U2) :
    runVectors false (0b00#2 :: vs) s = runVectors false vs (idleAfter 1 s) := by
  have hnop : Edge (decode 0b00#2) (atFirstEdge false (0b00#2 :: vs) s) _ := .nop hk
  rw [runVectors_unread_cons hnop]
  rfl

/-- NOPs alone, at least one, lead from a known state to the idle state. -/
theorem runVectors_unread_nops (n : Nat) : ∀ {s : State}, s.known = true →
    runVectors false (List.replicate (n + 1) 0b00#2) s = .next (idleAfter (n + 1) s) := by
  induction n with
  | zero => exact fun hk => runVectors_unread_nop_cons hk []
  | succ n ih =>
    intro s hk
    rw [List.replicate_succ, runVectors_unread_nop_cons hk, ih (s := idleAfter 1 s) hk, idleAfter_idleAfter, Nat.add_comm]

/-! ### Runs that are read only from a RESET on (R204) -/

/-- The premise on the listed cycles, taken apart at the coming cycle, also where that is past the list. -/
theorem readsAfterReset_nextCycle (s : State) :
    readsAfterReset s.known s.pending = true ↔
      ((s.known || resets (nextCycle s).ctrl) || !(nextCycle s).read) = true ∧
        readsAfterReset (s.known || resets (nextCycle s).ctrl) s.pending.tail = true := by
  cases hp : s.pending with
  | nil => simp [nextCycle_of_nil hp, readsAfterReset]
  | cons c cs => simp [nextCycle, hp, readsAfterReset]

/-- A step takes one cycle from the list. -/
theorem step_pending {s t : State} (h : step s = .next t) : t.pending = s.pending.tail := by
  obtain ⟨u, hu, hread⟩ := step_next h
  obtain ⟨-, hpending, -⟩ := (exec_next_iff.mp hu).frame
  rw [pending_of_hostRead hread, hpending, takeCycle_pending]

/-- After a step the state is known if it was before or the vector drove `rst_i` high (44_tick_step.md R167). -/
theorem step_known {s t : State} (h : step s = .next t) : t.known = (s.known || resets (nextCycle s).ctrl) := by
  obtain ⟨u, hu, hread⟩ := step_next h
  rw [← (sameHardware_of_hostRead hread).known, Bool.eq_iff_iff, (exec_next_iff.mp hu).known_iff, ← resets_iff]
  simp

/-- Where no listed cycle is read before a RESET, the step is answered, and the same holds after it. -/
theorem step_readsAfterReset {s : State} (h : readsAfterReset s.known s.pending = true) :
    ∃ t, step s = .next t ∧ readsAfterReset t.known t.pending = true := by
  obtain ⟨hnow, hrest⟩ := (readsAfterReset_nextCycle s).mp h
  rcases step_cases s with ⟨-, t, ht⟩ | ⟨hreads, -⟩
  · exact ⟨t, ht, by rwa [step_known ht, step_pending ht]⟩
  · obtain ⟨hunknown, hread, hlow⟩ := (readsBeforeReset_iff s).mp hreads
    simp [hunknown, hread, hlow] at hnow

/-! ### The obligations -/

/-- Settles O12: the vector 11 is RESET, after which the scaler and the events are the remainder and the quotient of the
later ticks by 4. -/
theorem tickOfferedWithResetIsDiscarded : Obligations.TickOfferedWithResetIsDiscarded := by
  intro s n hn
  obtain ⟨t, os, ht, hos, hscaler, hevents, -⟩ := runVectors_read_after_reset 1 (noReset_replicate_tick n) s
  rw [tickCount_replicate_tick] at hscaler hevents
  refine ⟨t, os, ht, hos, fun hzero => BitVec.eq_of_toNat_eq (by simp [hscaler, hzero]), ?_⟩
  split_ifs <;> omega

/-- Settles O13: what follows the held reset is nothing, or one vector. -/
theorem heldResetKeepsResetState : Obligations.HeldResetKeepsResetState := by
  intro s vs hne hreset
  refine ⟨?held, fun v _ => ?resumed⟩
  case held =>
    rw [← List.append_nil vs, runVectors_unread_held_reset hne [] hreset s, runVectors_nil, List.append_nil]
    rfl
  case resumed =>
    rw [runVectors_unread_held_reset hne [v] hreset s, runVectors_unread_singleton]
    rfl

/-- Settles O26: three ticks make no event, so that the outputs stay; the fourth raises the strobe, and makes one advance
from angle 0. -/
theorem firstAdvanceAfterReset : Obligations.FirstAdvanceAfterReset := by
  refine fun s b vs hr => ⟨fun hle => ?before, fun hthree => ?fourth⟩
  case before =>
    obtain ⟨t, os, ht, hos, -, -, hzeros⟩ := runVectors_read_after_reset b hr s
    exact ⟨t, os, ht, hos, hzeros (by omega)⟩
  case fourth =>
    obtain ⟨-, hstrobe, hphases⟩ := rawTicksAreCounted
    obtain ⟨r, hk, hscaler, -, -, hrun⟩ := runVectors_read_reset_outputs b (vs ++ [0b01#2]) s
    obtain ⟨t, ht, hupd⟩ := hstrobe r vs hk hscaler hr hthree
    obtain ⟨t', ht', hphase, -⟩ := hphases s b (vs ++ [0b01#2])
      ((noReset_append vs _).mpr ⟨hr, noReset_replicate_tick 1⟩)
    have hfour : tickCount (vs ++ [0b01#2]) = 4 := by rw [tickCount_append, hthree]; rfl
    rw [hrun] at ht' ⊢
    obtain rfl : t = t' := by simpa [ht] using ht'
    exact ⟨t, ht, hupd, BitVec.eq_of_toNat_eq (by simp [hphase, hfour])⟩

/-- Settles O27: each NOP clears the strobe and counts its edge. -/
theorem withoutTicksTheBlockIsFrozen : Obligations.WithoutTicksTheBlockIsFrozen :=
  fun _ n hk => runVectors_unread_nops n hk

/-- Settles O33, by induction on the cycles: every step is answered and keeps the premise on the cycles that remain. -/
theorem runsReadAfterResetNeverStop : Obligations.RunsReadAfterResetNeverStop := by
  intro s k
  induction k generalizing s with
  | zero => exact fun _ => ⟨s, rfl⟩
  | succ k ih =>
    intro h
    obtain ⟨u, hu, hrest⟩ := step_readsAfterReset h
    rw [runFor_succ_next hu]
    exact ih u hrest

/-- Settles O11. -/
theorem resetGivesResetState : Obligations.ResetGivesResetState :=
  fun s t => (Edge.reset t s).exec_eq

end Sys2Proof.Machine
end
